-- ==== Sys2Proof/Word.lean ====
section
/-! DEFINITION. The word types of huffman_codec_core (00_scope.md R6, R9, R10).
Only the widths stand here; all arithmetic that a rule gives is under Machine/. -/

namespace Sys2Proof

/-- A host-visible register, REG_BITS = 32 (R6). -/
abbrev Word := BitVec 32

/-- A byte of DMEM. -/
abbrev Byte := BitVec 8

/-- A symbol is one raw byte, SYMBOL_BITS = 8 (R8). -/
abbrev Symbol := BitVec 8

/-- A node weight, WEIGHT_BITS = 40 (R6, R14). -/
abbrev Weight := BitVec 40

/-- A node index, a node count or a leaf count, 9 bits (R6, R50, R54). -/
abbrev NodeIdx := BitVec 9

/-- A host byte offset inside the block, HOST_AW = 17 (R6, R80). -/
abbrev Offset := BitVec 17

/-- A code is a finite sequence of bits, first bit first (R11). -/
abbrev Code := List Bool

end Sys2Proof
end

