-- ==== Sys2Proof/Syntax.lean ====
section
/-! DEFINITION. The six commands (30_encoding.md R113). -/

namespace Sys2Proof

/-- A command of huffman_codec_core, one constructor per row of spec/opcode_table.json.
A command word carries no operand (R116), so no constructor does. -/
inductive Instr where
  /-- BUILD, 40_tree_builder.md R164. -/
  | build
  /-- GENLUT, 41_encoder.md R180. -/
  | genlut
  /-- ENCODE, 41_encoder.md R185. -/
  | encode
  /-- DECODE, 42_decoder.md R210. -/
  | decode
  /-- SERIALIZE, 43_container.md R230. -/
  | serialize
  /-- DESERIALIZE, 43_container.md R240. -/
  | deserialize
deriving DecidableEq, Repr

end Sys2Proof
end

