-- ==== Sys2Proof/Machine/Types.lean ====
section
/-! DEFINITION. The kinds of thing the state is made of: nodes, phases, error names, host transactions. -/

namespace Sys2Proof.Machine

/-- An entry of the NODE table (10_state.md R54). -/
inductive Node where
  /-- `Leaf(sym, w)`. -/
  | leaf (sym : Symbol) (weight : Weight)
  /-- `Internal(w, l, r)`: the children are indices into NODE. -/
  | internal (weight : Weight) (left right : NodeIdx)
deriving DecidableEq, Repr, Inhabited

/-- The engine phase (10_state.md R61). -/
inductive Phase where
  /-- No command runs. -/
  | idle
  /-- The command of word `w` runs. -/
  | busy (w : Word)
deriving DecidableEq, Repr

/-- The error codes by name (60_exceptions.md R265).
Codes 0x08-0x0F and 0x14-0xFF are never written, and have no name. -/
inductive ErrCode where
  | none
  | illegalCmd
  | noTree
  | noLut
  | range
  | overlap
  | length
  | capacity
  | unknownSymbol
  | corruptTree
  | traversal
  | corruptArtifact
deriving DecidableEq, Repr

/-- The subcodes of CORRUPT_ARTIFACT by name (60_exceptions.md R268). -/
inductive ArtifactFault where
  | truncated
  | badVersion
  | badVarint
  | badNodeCount
  | badTag
  | dupSymbol
  | nodeMismatch
  | payloadShort
  | trailing
deriving DecidableEq, Repr

/-- `Error(CODE, SUB, INFO)` of 00_scope.md R12. -/
structure Error where
  code : ErrCode
  sub : Byte
  info : Word
deriving DecidableEq, Repr

/-- The size of a host transaction: 1, 2 or 4 bytes (20_memory.md R80). -/
inductive Size where
  | one
  | two
  | four
deriving DecidableEq, Repr

/-- What happens next outside the engine, or the engine's turn.
The host performs one transaction at a time (R80) and drives `rst_n` (R300);
`engineTurn` says that the engine's step comes here in the order of R96 (log 1). -/
inductive Event where
  /-- The host reads `size` bytes at `offset`. -/
  | hostRead (size : Size) (offset : Offset)
  /-- The host writes the low bytes of `value` at `offset`. -/
  | hostWrite (size : Size) (offset : Offset) (value : Word)
  /-- The host holds `rst_n` low and releases it (R300, R301). -/
  | resetPulse
  /-- The engine takes its step, if it has one. -/
  | engineTurn
deriving DecidableEq, Repr

end Sys2Proof.Machine
end

