-- ==== Sys2Proof/Config.lean ====
section
/-! DEFINITION. What an implementation fixes (00_scope.md R7), and the free values of the model:
constants with no body, so that nothing can be proved of a value the spec leaves any() (R12, 93 Part B; log 5).
The first argument numbers the draw: each any() of a rule is a draw of its own. -/

namespace Sys2Proof

/-- The open parameters a rule depends on (R7).
LATENCY and BASE are open too; no rule depends on them (R320, 20_memory.md R82; logs 18, 19). -/
structure Config.Params where
  /-- DMEM_BYTES, the size of the local data memory; 1..65536. -/
  dmemBytes : Nat
deriving DecidableEq, Repr

/-- The spec's reference configuration, DMEM_BYTES = 65536 (R7). -/
def Config.reference : Config.Params := { dmemBytes := 65536 }

/-- any() for a word a host read returns, fresh per draw (B1, B7). -/
opaque Config.freeWord : Nat → Word

/-- any() for a byte of DMEM: the `j`-th of a draw (B4, B5). -/
opaque Config.freeByte : Nat → Nat → Byte

/-- any() for an entry of NODE: entry `i` of a draw (B2, B6). -/
opaque Config.freeNode : Nat → Nat → Machine.Node

/-- any() for the length of an entry of LUT, 0..255: entry `i` of a draw (B2). -/
opaque Config.freeCodeLen : Nat → Nat → BitVec 8

/-- any() for the bits of an entry of LUT: entry `i` of a draw (B2). -/
opaque Config.freeCodeBits : Nat → Nat → BitVec 255

/-- any() for the byte DMEM holds at an address after the `n`-th hardware reset (B3).
It is a function of the address, because an unwritten byte keeps its value (R96, R98). -/
opaque Config.powerOnByte : Nat → Nat → Byte

end Sys2Proof
end

