-- ==== Sys2Proof/WellFormed.lean ====
section
/-! DEFINITION. Well-formedness of what comes from outside: commands, command words, parameters. -/

namespace Sys2Proof

/-- A command is well formed whatever it is: no command has an operand (30_encoding.md R116). -/
def Instr.wellFormed : Instr → Bool
  | .build => true
  | .genlut => true
  | .encode => true
  | .decode => true
  | .serialize => true
  | .deserialize => true

/-- A command word is legal: `w[31:8] == 0` and `w[7:0]` is one of 0x01..0x06 (R111). -/
def legalWord (w : Word) : Bool :=
  w.extractLsb' 8 24 == 0#24 && 1 ≤ (w.extractLsb' 0 8).toNat && (w.extractLsb' 0 8).toNat ≤ 6

/-- The parameters are in range: 1 <= DMEM_BYTES <= 65536 (00_scope.md R7). -/
def Config.Params.wellFormed (p : Config.Params) : Bool :=
  decide (1 ≤ p.dmemBytes) && decide (p.dmemBytes ≤ 65536)

end Sys2Proof
end

