-- ==== Sys2Proof/Decode.lean ====
section
/-! DEFINITION. Decoding and encoding of command words, format CMD32 (30_encoding.md R110-R114). -/

namespace Sys2Proof

/-- Why a word is no command (R114). -/
inductive Illegal where
  /-- The RSVD field is not zero (R112). -/
  | reserved (rsvd : BitVec 24)
  /-- The opcode is 0x00 or 0x07-0xFF. -/
  | opcode (op : BitVec 8)
deriving DecidableEq, Repr

/-- OPCODE, bits 7:0 (R110). -/
def opcodeField (w : Word) : BitVec 8 := w.extractLsb' 0 8

/-- RSVD, bits 31:8 (R110). -/
def reservedField (w : Word) : BitVec 24 := w.extractLsb' 8 24

/-- The opcode map (R113). -/
def ofOpcode (op : BitVec 8) : Option Instr :=
  if op = 0x01#8 then some .build
  else if op = 0x02#8 then some .genlut
  else if op = 0x03#8 then some .encode
  else if op = 0x04#8 then some .decode
  else if op = 0x05#8 then some .serialize
  else if op = 0x06#8 then some .deserialize
  else none

/-- Decode a command word (R111): total, and an illegal word is refused by name. -/
def decode (w : Word) : Except Illegal Instr :=
  if reservedField w = 0#24 then
    match ofOpcode (opcodeField w) with
    | some i => .ok i
    | none => .error (.opcode (opcodeField w))
  else .error (.reserved (reservedField w))

/-- The opcode of a command (R113). -/
def opcodeOf : Instr → BitVec 8
  | .build => 0x01#8
  | .genlut => 0x02#8
  | .encode => 0x03#8
  | .decode => 0x04#8
  | .serialize => 0x05#8
  | .deserialize => 0x06#8

/-- The word of a command: RSVD zero, then the opcode (R110). -/
def encode (i : Instr) : Word := 0#24 ++ opcodeOf i

/-- The command `decode` reads from a word given as its number in spec/opcode_table.json's bit numbering.
A command word is one 32-bit word (R110); the bits from `nbits` on are zero. -/
def decodeTableWord (nbits w : Nat) : Option Instr :=
  match decode (BitVec.ofNat 32 (w % 2 ^ nbits)) with
  | .ok i => some i
  | .error _ => none

end Sys2Proof
end

