-- ==== Sys2Proof/Machine/State.lean ====
section
/-! DEFINITION. The state of huffman_codec_core: every register, table and memory of 10_state.md, as plain data,
and the state after a hardware reset (10_state.md R63, 70_reset_and_hazards.md R301). -/

namespace Sys2Proof.Machine

/-- The state. INVENTORY.md lists each field with its rule and reset value. -/
structure State where
  /-- The parameters; no step writes them (R7, log 4). -/
  cfg : Config.Params
  /-- The engine phase; STATUS.BUSY mirrors it (R61, R38). -/
  phase : Phase
  /-- CTRL.IRQ_EN (R35). -/
  irqEn : Bool
  /-- STATUS.DONE (R39). -/
  done : Bool
  /-- STATUS.TREE_VALID (R41). -/
  treeValid : Bool
  /-- STATUS.LUT_VALID (R42). -/
  lutValid : Bool
  /-- STATUS.OVERRUN (R43). -/
  overrun : Bool
  /-- ERRCODE.CODE, by name (R44, log 15). -/
  errCode : ErrCode
  /-- ERRCODE.SUB (R44). -/
  errSub : Byte
  /-- ERRINFO (R45). -/
  errInfo : Word
  /-- SRC_ADDR (R46). -/
  srcAddr : Word
  /-- SRC_LEN (R46). -/
  srcLen : Word
  /-- DST_ADDR (R47). -/
  dstAddr : Word
  /-- DST_CAP (R47). -/
  dstCap : Word
  /-- OUT_LEN (R48). -/
  outLen : Word
  /-- BITCOUNT (R49). -/
  bitCount : Word
  /-- NODE_COUNT (R50). -/
  nodeCount : NodeIdx
  /-- ROOT (R50). -/
  root : NodeIdx
  /-- LEAF_COUNT (R50). -/
  leafCount : NodeIdx
  /-- FREQ[0..255] (R52). -/
  freq : Vector Word 256
  /-- NODE[0..510] (R54). -/
  node : Vector Node 511
  /-- LUT[0..255], each entry its code (R57, log 16). -/
  lut : Vector Code 256
  /-- DMEM: the bytes written, or made any(), since the last hardware reset (R60, log 7). -/
  dmem : List Host.Cell
  /-- (model) The hardware resets DMEM has gone through (log 7). -/
  powerOn : Nat
  /-- (model) The draws of free values made so far (log 5). -/
  draws : Nat
  /-- (model) What the host and the scheduler do next, oldest first (log 1). -/
  events : List Event
  /-- (model) What the last host read returned (log 12). -/
  readData : Word
deriving DecidableEq, Repr

/-- How a step can stop the machine for good. -/
inductive Fault where
  /-- Raised by GENLUT, DECODE and SERIALIZE when TREE_VALID = 1 over a NODE table in which the walk from ROOT
  meets an index with no entry or does not end within the 511 entries.
  R56 rules such a state out, and no step reaches one. Safe: the model stops where a rule has no meaning (log 14). -/
  | notATree
deriving DecidableEq, Repr

/-- How a step can decline an instruction. -/
inductive Refusal where
  /-- Raised by `exec` alone, for a command whose meaning is not written yet. Safe. No arm uses it. -/
  | notModelled (mnemonic : String)
deriving DecidableEq, Repr

/-- The bits of a free LUT entry: at most 255 of them (R57, B2). -/
def freeCode (n i : Nat) : Code :=
  (List.range (Config.freeCodeLen n i).toNat).map fun m => (Config.freeCodeBits n i).getLsbD m

/-- A NODE table of 511 free entries, the `n`-th draw (R63, B2). -/
@[irreducible] def freeNodes (n : Nat) : Vector Node 511 :=
  Vector.ofFn fun i => Config.freeNode n i.val

/-- A LUT of 256 free entries, the `n`-th draw (R63, B2). -/
@[irreducible] def freeLut (n : Nat) : Vector Code 256 :=
  Vector.ofFn fun i => freeCode n i.val

/-- The state after rst_n (R63, R301): every register and flag 0, FREQ all 0, the engine idle;
NODE, LUT and DMEM any(). The model's own fields start as logs 1, 5, 7 and 12 say. -/
def State.reset : State where
  cfg := Config.reference
  phase := .idle
  irqEn := false
  done := false
  treeValid := false
  lutValid := false
  overrun := false
  errCode := .none
  errSub := 0
  errInfo := 0
  srcAddr := 0
  srcLen := 0
  dstAddr := 0
  dstCap := 0
  outLen := 0
  bitCount := 0
  nodeCount := 0
  root := 0
  leafCount := 0
  freq := Vector.replicate 256 0
  node := freeNodes 0
  lut := freeLut 1
  dmem := []
  powerOn := 0
  draws := 2
  events := []
  readData := 0

end Sys2Proof.Machine
end

