-- ==== Sys2Proof/Machine/Ops.lean ====
section
/-! DEFINITION. The named operations over memory, tables and registers: DMEM reads and writes (00_scope.md R12,
20_memory.md R86), the destination range, issue and completion (60_exceptions.md R261-R264),
raising an error (R264, R266), and the two resets (70_reset_and_hazards.md R301-R303). -/

namespace Sys2Proof.Machine

/-- `ceil8(b) = (b + 7) div 8`, the bytes that hold `b` bits, without width limit (00_scope.md R10). -/
def ceil8 (b : Nat) : Nat := (b + 7) / 8

/-! ### DMEM as a list of cells -/

/-- The byte listed at an address, if one is. -/
def Mem.lookup : List Host.Cell → Nat → Option Byte
  | [], _ => none
  | c :: cs, a => if c.1 = a then some c.2 else Mem.lookup cs a

/-- The cells of bytes laid out from address `a` on. -/
def Mem.cellsFrom : Nat → List Byte → List Host.Cell
  | _, [] => []
  | a, b :: bs => (a, b) :: Mem.cellsFrom (a + 1) bs

/-- Write bytes from address `a` on: the cells below, the new cells, the cells above. -/
def Mem.store (m : List Host.Cell) (a : Nat) (bs : List Byte) : List Host.Cell :=
  m.filter (fun c => decide (c.1 < a)) ++ Mem.cellsFrom a bs ++
    m.filter (fun c => decide (a + bs.length ≤ c.1))

/-- The canonical form of DMEM: addresses strictly rising, and none at or beyond DMEM_BYTES.
An address that is not listed has no byte of its own, so no listed byte equals it (log 7). -/
def Mem.wf (size : Nat) : List Host.Cell → Bool
  | [] => true
  | [c] => decide (c.1 < size)
  | c :: d :: cs => decide (c.1 < d.1) && Mem.wf size (d :: cs)

/-- `MemRead(a, 1)` (R12): the byte of DMEM at `a`.
An address nothing has written since power-on holds any() (10_state.md R60, 93 B3). -/
def State.byteAt (s : State) (a : Nat) : Byte :=
  match Mem.lookup s.dmem a with
  | some b => b
  | none => Config.powerOnByte s.powerOn a

/-- The bytes of DMEM from `a` on, `n` of them. -/
def State.bytesAt (s : State) (a n : Nat) : List Byte :=
  (List.range n).map fun i => s.byteAt (a + i)

/-- `MemWrite` of successive bytes from `a` on (R12). -/
def State.store (s : State) (a : Nat) (bs : List Byte) : State :=
  { s with dmem := Mem.store s.dmem a bs }

/-! ### any() -/

/-- A fresh word, any() (R12): the value and the state in which the next draw is another. -/
def State.drawWord (s : State) : Word × State :=
  (Config.freeWord s.draws, { s with draws := s.draws + 1 })

/-- Free bytes: `n` of the next draw. -/
def State.freeBytes (s : State) (n : Nat) : List Byte :=
  (List.range n).map fun j => Config.freeByte s.draws j

/-- Bytes of DMEM become any(): `n` of them from `a` on, each a fresh free value. -/
def State.storeFree (s : State) (a n : Nat) : State :=
  { s.store a (s.freeBytes n) with draws := s.draws + 1 }

/-! ### The destination range -/

/-- How many bytes of the destination range DST_ADDR .. DST_ADDR + DST_CAP - 1 lie in DMEM
(R303 'clipped to DMEM'; after a passed range check that is all of them). -/
def State.dstClipped (s : State) : Nat :=
  min s.dstCap.toNat (s.cfg.dmemBytes - s.dstAddr.toNat)

/-- Every byte of the destination range becomes any() (60_exceptions.md R266, 70_reset_and_hazards.md R303). -/
def State.loseDst (s : State) : State := s.storeFree s.dstAddr.toNat s.dstClipped

/-- Write a command's output to the destination range (20_memory.md R90, R92). -/
def State.storeDst (s : State) (bs : List Byte) : State := s.store s.dstAddr.toNat bs

/-! ### Issue, completion, errors -/

/-- The number of an error code (60_exceptions.md R265). -/
def ErrCode.value : ErrCode → Byte
  | .none => 0x00#8
  | .illegalCmd => 0x01#8
  | .noTree => 0x02#8
  | .noLut => 0x03#8
  | .range => 0x04#8
  | .overlap => 0x05#8
  | .length => 0x06#8
  | .capacity => 0x07#8
  | .unknownSymbol => 0x10#8
  | .corruptTree => 0x11#8
  | .traversal => 0x12#8
  | .corruptArtifact => 0x13#8

/-- The number of a CORRUPT_ARTIFACT subcode (R268). -/
def ArtifactFault.value : ArtifactFault → Byte
  | .truncated => 0x01#8
  | .badVersion => 0x02#8
  | .badVarint => 0x03#8
  | .badNodeCount => 0x04#8
  | .badTag => 0x05#8
  | .dupSymbol => 0x06#8
  | .nodeMismatch => 0x07#8
  | .payloadShort => 0x08#8
  | .trailing => 0x09#8

/-- The class of an error: an execution error (true) or a pre-check error (R265, R266). -/
def ErrCode.isExecution : ErrCode → Bool
  | .none => false
  | .illegalCmd => false
  | .noTree => false
  | .noLut => false
  | .range => false
  | .overlap => false
  | .length => false
  | .capacity => true
  | .unknownSymbol => true
  | .corruptTree => true
  | .traversal => true
  | .corruptArtifact => true

/-- Command issue of word `w` (R261). -/
def State.issue (s : State) (w : Word) : State :=
  { s with phase := .busy w, done := false, errCode := .none, errSub := 0, errInfo := 0 }

/-- The completion state (R262): the report, OUT_LEN, phase IDLE and DONE. -/
def State.complete (s : State) (e : Error) (out : Word) : State :=
  { s with errCode := e.code, errSub := e.sub, errInfo := e.info, outLen := out,
           phase := .idle, done := true }

/-- `finish(OUT)` (R263). -/
def State.finish (s : State) (out : Nat) : State :=
  s.complete ⟨.none, 0, 0⟩ (BitVec.ofNat 32 out)

/-- `raise Error(CODE, SUB, INFO)` (R264, R266): this block's way of taking an exception.
ERRCODE and ERRINFO take the report, OUT_LEN is 0, DONE is 1, the phase is IDLE;
an execution error leaves the destination range any(). Nothing else is saved and nothing jumps (R260, R272). -/
def State.raise (s : State) (e : Error) : State :=
  (if e.code.isExecution then s.loseDst else s).complete e 0

/-- CTRL.ACK (10_state.md R35), what this block has instead of a return from an exception (R273):
DONE is cleared when `ack` is set, and the report stays. -/
def State.acknowledge (s : State) (ack : Bool) : State := { s with done := s.done && !ack }

/-- The tree becomes invalid and NODE any(), as a DESERIALIZE that fails after its pre-checks leaves it
(43_container.md R253). -/
def State.loseTree (s : State) : State :=
  { s with treeValid := false, lutValid := false, node := freeNodes s.draws,
           nodeCount := 0, root := 0, leafCount := 0, draws := s.draws + 1 }

/-! ### Resets -/

/-- The word is a legal ENCODE, DECODE, SERIALIZE or DESERIALIZE word (R303). -/
def hasDestination (w : Word) : Bool :=
  match Sys2Proof.decode w with
  | .ok .build => false
  | .ok .genlut => false
  | .ok .encode => true
  | .ok .decode => true
  | .ok .serialize => true
  | .ok .deserialize => true
  | .error _ => false

/-- The abort of a running command by a reset: its destination range becomes any() (R303, log 17). -/
def State.abort (s : State) : State :=
  match s.phase with
  | .idle => s
  | .busy w => if hasDestination w then s.loseDst else s

/-- Every register and flag at its reset value, FREQ all 0, NODE and LUT any();
DMEM and the model's own fields are left to the caller (10_state.md R63). -/
def State.clear (s : State) : State :=
  { s with
      phase := .idle, irqEn := false, done := false, treeValid := false, lutValid := false,
      overrun := false, errCode := .none, errSub := 0, errInfo := 0,
      srcAddr := 0, srcLen := 0, dstAddr := 0, dstCap := 0, outLen := 0, bitCount := 0,
      nodeCount := 0, root := 0, leafCount := 0, freq := Vector.replicate 256 0,
      node := freeNodes s.draws, lut := freeLut (s.draws + 1), draws := s.draws + 2 }

/-- `soft_reset()` (R302): DMEM keeps its contents, apart from the destination of an aborted command (R303). -/
def State.softReset (s : State) : State := s.abort.clear

/-- The hardware reset (R301): as the soft reset, and all of DMEM becomes any() (logs 6, 7, 13). -/
def State.hardReset (s : State) : State :=
  { s.clear with dmem := [], powerOn := s.powerOn + 1 }

end Sys2Proof.Machine
end

