-- ==== Sys2Proof/Machine/Operands.lean ====
section
/-! DEFINITION. The operands of a command: the source range, the range and overlap checks (20_memory.md R90, R91),
bit sequences and their packing (30_encoding.md R130-R132), and the entries of NODE, LUT and FREQ. -/

namespace Sys2Proof.Machine

/-! ### Table entries -/

/-- `NODE[i]`: entries 0..510 exist, and index 511 of a 9-bit field names none (10_state.md R54, log 22). -/
def nodeAt (t : Vector Node 511) (i : NodeIdx) : Option Node := t[i.toNat]?

/-- `LUT[s]`, the code of symbol `s` (10_state.md R57). -/
def codeAt (t : Vector Code 256) (s : Symbol) : Code := t[s.toNat]

/-- `FREQ[s]`, the count of symbol `s` (10_state.md R52). -/
def freqAt (t : Vector Word 256) (s : Symbol) : Word := t[s.toNat]

/-- The weight of a node (40_tree_builder.md R161). -/
def Node.weight : Node → Weight
  | .leaf _ w => w
  | .internal w _ _ => w

/-! ### Ranges -/

/-- The source range lies in DMEM, on unbounded integers (R90). -/
def State.srcInRange (s : State) : Bool :=
  decide (s.srcAddr.toNat + s.srcLen.toNat ≤ s.cfg.dmemBytes)

/-- The destination range lies in DMEM, on unbounded integers (R90). -/
def State.dstInRange (s : State) : Bool :=
  decide (s.dstAddr.toNat + s.dstCap.toNat ≤ s.cfg.dmemBytes)

/-- The ranges are not empty and share a byte (R91). -/
def State.overlaps (s : State) : Bool :=
  decide (0 < s.srcLen.toNat) && decide (0 < s.dstCap.toNat) &&
    decide (s.srcAddr.toNat < s.dstAddr.toNat + s.dstCap.toNat) &&
    decide (s.dstAddr.toNat < s.srcAddr.toNat + s.srcLen.toNat)

/-- `check_range_src(); check_range_dst(); check_overlap()`: the first error, if any (R90, R91, R267). -/
def State.rangeError (s : State) : Option Error :=
  if !s.srcInRange then some ⟨.range, 0, 0⟩
  else if !s.dstInRange then some ⟨.range, 0, 1⟩
  else if s.overlaps then some ⟨.overlap, 0, 0⟩
  else none

/-- The source bytes, in rising offset (R90). -/
def State.srcBytes (s : State) : List Byte := s.bytesAt s.srcAddr.toNat s.srcLen.toNat

/-- Output of more than DST_CAP bytes: CAPACITY, with the bytes required (60_exceptions.md R265). -/
def capacityError (needed : Nat) : Error := ⟨.capacity, 0, BitVec.ofNat 32 needed⟩

/-- A source range too short for BITCOUNT bits: LENGTH, with the bytes required (60_exceptions.md R265). -/
def lengthError (needed : Nat) : Error := ⟨.length, 0, BitVec.ofNat 32 needed⟩

/-- The bytes BITCOUNT bits take (30_encoding.md R132). -/
def State.bitBytes (s : State) : Nat := ceil8 s.bitCount.toNat

/-! ### Packed bits -/

/-- The byte whose bit `7 - m` is bit `8j + m` of the sequence, and 0 past its end (R130, R131). -/
def packedByte (bits : List Bool) (j : Nat) : Byte :=
  (List.range 8).foldl
    (fun v m => if bits.getD (8 * j + m) false then v + (1#8 <<< (7 - m)) else v) 0#8

/-- The packed form of a bit sequence: ceil8 of its length bytes, MSB-first, zero padding (R130-R132). -/
def packBits (bits : List Bool) : List Byte :=
  (List.range (ceil8 bits.length)).map (packedByte bits)

/-- `bit(j)` of the packed source: bit `7 - (j mod 8)` of source byte `j div 8` (42_decoder.md R210). -/
def State.srcBit (s : State) (j : Nat) : Bool :=
  (s.byteAt (s.srcAddr.toNat + j / 8)).getLsbD (7 - j % 8)

/-- The first `n` bits of the packed source. -/
def State.srcBits (s : State) (n : Nat) : List Bool := (List.range n).map s.srcBit

end Sys2Proof.Machine
end

