-- ==== Sys2Proof/Machine/Tree.lean ====
section
/-! DEFINITION. The walk over the whole tree that GENLUT and SERIALIZE share:
an explicit stack, left subtree first (41_encoder.md R183, 43_container.md R231). -/

namespace Sys2Proof.Machine

/-- A node met by the walk: its index, its entry and the branches from the root to it. -/
structure Visit where
  idx : NodeIdx
  node : Node
  path : Code
deriving DecidableEq, Repr

/-- Pop a node, note it, push its right and then its left child, until the stack is empty.
`fuel` bounds the nodes met; `none` says that an index has no entry or that the fuel ran out (log 14). -/
def visits (t : Vector Node 511) : Nat → List (NodeIdx × Code) → Option (List Visit)
  | _, [] => some []
  | 0, _ :: _ => none
  | fuel + 1, (i, c) :: stack =>
    match nodeAt t i with
    | none => none
    | some (.leaf sym w) =>
      (visits t fuel stack).map (⟨i, .leaf sym w, c⟩ :: ·)
    | some (.internal w l r) =>
      (visits t fuel ((l, c ++ [false]) :: (r, c ++ [true]) :: stack)).map
        (⟨i, .internal w l r, c⟩ :: ·)

/-- The nodes of the current tree in pre-order; the empty tree has none.
A tree has at most MAX_NODES = 511 nodes (00_scope.md R6). -/
def State.treeVisits (s : State) : Option (List Visit) :=
  if s.nodeCount = 0 then some [] else visits s.node 511 [(s.root, [])]

end Sys2Proof.Machine
end

