-- ==== Sys2Proof/Machine/TreeBuilder.lean ====
section
/-! DEFINITION. huffman_tree_builder: BUILD (40_tree_builder.md R160-R168). -/

namespace Sys2Proof.Machine

/-- A member of the priority set P with its key (R161). -/
structure Key where
  weight : Weight
  idx : Nat
deriving DecidableEq, Repr

/-- The lexicographic order of keys: by weight, then by index (R162). -/
def Key.lt (a b : Key) : Bool :=
  decide (a.weight.toNat < b.weight.toNat) ||
    (a.weight == b.weight && decide (a.idx < b.idx))

/-- `min_key(P)` of a set given as a first member and the others (R161). -/
def minKey : Key → List Key → Key
  | m, [] => m
  | m, k :: ks => minKey (if k.lt m then k else m) ks

/-- Extract the member with the smallest key (R161, R163). -/
def extractMin : List Key → Option (Key × List Key)
  | [] => none
  | k :: ks => some (minKey k ks, (k :: ks).erase (minKey k ks))

/-- The present symbols in ascending value, with their counts (R160). -/
def presentSymbols (freq : Vector Word 256) : List (Symbol × Word) :=
  freq.toList.zipIdx.filterMap fun (n, s) => if n = 0#32 then none else some (BitVec.ofNat 8 s, n)

/-- The leaves BUILD allocates: NODE[0..L-1] (R160). -/
def leafNodes (freq : Vector Word 256) : List Node :=
  (presentSymbols freq).map fun (s, n) => .leaf s (n.setWidth 40)

/-- The keys of the leaves: the initial priority set {0, ..., L-1} (R161). -/
def initialKeys (leaves : List Node) : List Key :=
  leaves.zipIdx.map fun (n, i) => ⟨n.weight, i⟩

/-- The merge steps (R163): while |P| >= 2, extract a and then b, write NODE[next] = Internal(sum, b, a), insert next.
Each step makes P one smaller, so |P| steps of `fuel` are enough.
Gives what is left of P, and the nodes written, the new ones appended. -/
def mergeAll : Nat → List Key → List Node → List Key × List Node
  | 0, p, nodes => (p, nodes)
  | fuel + 1, p, nodes =>
    match extractMin p with
    | none => (p, nodes)
    | some (a, p1) =>
      match extractMin p1 with
      | none => (p, nodes)
      | some (b, p2) =>
        let w := a.weight + b.weight
        let node := Node.internal w (BitVec.ofNat 9 b.idx) (BitVec.ofNat 9 a.idx)
        mergeAll fuel (p2 ++ [⟨w, nodes.length⟩]) (nodes ++ [node])

/-- What BUILD makes of FREQ: what is left of P at the end, and the nodes from NODE[0] on (R164). -/
def buildTree (freq : Vector Word 256) : List Key × List Node :=
  let leaves := leafNodes freq
  mergeAll leaves.length (initialKeys leaves) leaves

/-- ROOT: the only element of P at the end, and 0 for the empty table (R164, R166). -/
def rootOf : List Key → NodeIdx
  | [] => 0#9
  | k :: _ => BitVec.ofNat 9 k.idx

/-- Write a list of nodes from NODE[0] on; the entries past it keep their values (R165, 43_container.md R252). -/
def writeNodes (t : Vector Node 511) (nodes : List Node) : Vector Node 511 :=
  Vector.ofFn fun i => nodes.getD i.val t[i]

/-- BUILD (R164); with no present symbol it writes the empty tree (R166), with one a lone leaf (R167). -/
def execBuild (s : State) : Host.Outcome State Fault Refusal :=
  .next
    ({ s with
        node := writeNodes s.node (buildTree s.freq).2
        nodeCount := BitVec.ofNat 9 (buildTree s.freq).2.length
        root := rootOf (buildTree s.freq).1
        leafCount := BitVec.ofNat 9 (leafNodes s.freq).length
        treeValid := true
        lutValid := false }.finish 0)

end Sys2Proof.Machine
end

