-- ==== Sys2Proof/Machine/Container.lean ====
section
/-! DEFINITION. container_serializer: varints (30_encoding.md R142, R143), SERIALIZE and DESERIALIZE (43_container.md). -/

namespace Sys2Proof.Machine

/-- FORMAT_VERSION (00_scope.md R6, 30_encoding.md R141). -/
def formatVersion : Byte := 0x01#8

/-! ### Writing -/

/-- `vlen(v)`, the bytes of the minimal varint (R143). -/
def varintLen (v : Nat) : Nat :=
  if v < 2 ^ 7 then 1
  else if v < 2 ^ 14 then 2
  else if v < 2 ^ 21 then 3
  else if v < 2 ^ 28 then 4
  else 5

/-- Byte `i` of the minimal varint: the `i`-th 7-bit group, with the continuation flag but in the last (R143). -/
def varintByte (v i : Nat) : Byte :=
  BitVec.ofNat 8 (v / 2 ^ (7 * i) % 128 + if i < varintLen v - 1 then 0x80 else 0)

/-- The minimal varint of a value (R143). -/
def varint (v : Nat) : List Byte := (List.range (varintLen v)).map (varintByte v)

/-- The record of a node: 0x00 for an Internal, 0x01 and the symbol for a Leaf (R145, R146). -/
def record : Node → List Byte
  | .internal _ _ _ => [0x00#8]
  | .leaf sym _ => [0x01#8, sym]

/-- The artifact of the nodes in pre-order, a bit count and a payload (R140). -/
def artifact (nodeCount : Nat) (vs : List Visit) (bitCount : Nat) (payload : List Byte) : List Byte :=
  [formatVersion] ++ varint nodeCount ++ vs.flatMap (fun v => record v.node) ++ varint bitCount ++ payload

/-- SERIALIZE (43_container.md R230). -/
def execSerialize (s : State) : Host.Outcome State Fault Refusal :=
  if !s.treeValid then .next (s.raise ⟨.noTree, 0, 0⟩)
  else
    match s.rangeError with
    | some e => .next (s.raise e)
    | none =>
      if s.bitBytes > s.srcLen.toNat then .next (s.raise (lengthError s.bitBytes))
      else
        match s.treeVisits with
        | none => .fault .notATree
        | some vs =>
          let bytes := artifact s.nodeCount.toNat vs s.bitCount.toNat
            (s.bytesAt s.srcAddr.toNat s.bitBytes)
          if bytes.length > s.dstCap.toNat then .next (s.raise (capacityError bytes.length))
          else .next ((s.storeDst bytes).finish bytes.length)

/-! ### Reading -/

/-- `fail(SUB, at)` of R240. -/
def artifactError (f : ArtifactFault) (pos : Nat) : Error :=
  ⟨.corruptArtifact, f.value, BitVec.ofNat 32 pos⟩

/-- The loop of `read_varint()` (R142) over the group numbers still to come, from offset `pos` with `v` read so far:
the value and the offset past the field.
With the groups 0..4 the empty case is not reached, since a fifth byte of at most 0x0F ends the field (log 20). -/
def readGroups (bytes : List Byte) : List Nat → Nat → Nat → Except Error (Nat × Nat)
  | [], pos, _ => .error (artifactError .badVarint pos)
  | i :: is, pos, v =>
    match bytes[pos]? with
    | none => .error (artifactError .truncated pos)
    | some b =>
      if i = 4 ∧ b.toNat > 0x0F then .error (artifactError .badVarint pos)
      else if 1 ≤ i ∧ b = 0x00#8 then .error (artifactError .badVarint pos)
      else
        let v := v + b.toNat % 128 * 2 ^ (7 * i)
        if b.getLsbD 7 then readGroups bytes is (pos + 1) v else .ok (v, pos + 1)

/-- `read_varint()` at offset `pos` (R142). -/
def readVarint (bytes : List Byte) (pos : Nat) : Except Error (Nat × Nat) :=
  readGroups bytes [0, 1, 2, 3, 4] pos 0

/-- The state of the record loop of R240, before record `k`. -/
structure Parse where
  /-- The offset of the next byte. -/
  pos : Nat
  /-- The number of the next record. -/
  k : Nat
  /-- The subtrees still to be read (R244). -/
  need : Nat
  /-- The leaves read: L. -/
  leaves : Nat
  /-- The symbols of the leaves read (R246). -/
  seen : List Symbol
  /-- S: the Internal records still waiting for a right child, the last pushed first (R247). -/
  waiting : List Nat
  /-- Record `k - 1` is an Internal record. -/
  prevInternal : Bool
  /-- NODE[0..k-1]. -/
  nodes : List Node
deriving DecidableEq, Repr

/-- Set the left child of an Internal node. -/
def Node.withLeft (l : NodeIdx) : Node → Node
  | .internal w _ r => .internal w l r
  | .leaf s w => .leaf s w

/-- Set the right child of an Internal node. -/
def Node.withRight (r : NodeIdx) : Node → Node
  | .internal w l _ => .internal w l r
  | .leaf s w => .leaf s w

/-- Link record `k` to its parent (R247): the left child of record `k - 1` when that is Internal,
which then waits for its right child; else the right child of the record waiting last.
Something waits whenever it must, because `need` is not 0 (log 20). -/
def Parse.link (p : Parse) : Parse :=
  if p.k = 0 then p
  else if p.prevInternal then
    { p with nodes := p.nodes.modify (p.k - 1) (Node.withLeft (BitVec.ofNat 9 p.k)),
             waiting := (p.k - 1) :: p.waiting }
  else
    match p.waiting with
    | [] => p
    | j :: rest =>
      { p with nodes := p.nodes.modify j (Node.withRight (BitVec.ofNat 9 p.k)), waiting := rest }

/-- Read record `k` (R240, R244-R247). Every loaded node has weight 0 (R247). -/
def Parse.readRecord (bytes : List Byte) (p : Parse) : Except Error Parse :=
  if p.need = 0 then .error (artifactError .nodeMismatch p.pos)
  else
    match bytes[p.pos]? with
    | none => .error (artifactError .truncated p.pos)
    | some tag =>
      if tag = 0x00#8 then
        let q := p.link
        .ok { q with nodes := q.nodes ++ [.internal 0 0 0], need := q.need + 1, pos := q.pos + 1,
                     prevInternal := true, k := q.k + 1 }
      else if tag = 0x01#8 then
        match bytes[p.pos + 1]? with
        | none => .error (artifactError .truncated (p.pos + 1))
        | some sym =>
          if p.seen.contains sym then .error (artifactError .dupSymbol (p.pos + 1))
          else
            let q := p.link
            .ok { q with nodes := q.nodes ++ [.leaf sym 0], need := q.need - 1, pos := q.pos + 2,
                         leaves := q.leaves + 1, seen := sym :: q.seen,
                         prevInternal := false, k := q.k + 1 }
      else .error (artifactError .badTag p.pos)

/-- Read the records that are left of N (R240). -/
def readRecords (bytes : List Byte) : Nat → Parse → Except Error Parse
  | 0, p => .ok p
  | left + 1, p =>
    match p.readRecord bytes with
    | .error e => .error e
    | .ok p' => readRecords bytes left p'

/-- The record loop's start: one subtree to read when N > 0 (R244). -/
def Parse.start (pos count : Nat) : Parse :=
  { pos := pos, k := 0, need := if count > 0 then 1 else 0, leaves := 0, seen := [], waiting := [],
    prevInternal := false, nodes := [] }

/-- What an accepted artifact holds. -/
structure Loaded where
  nodes : List Node
  leaves : Nat
  bitCount : Nat
  /-- The offset of PAYLOAD. -/
  payloadAt : Nat
deriving DecidableEq, Repr

/-- The tree of an artifact: VERSION, NODECOUNT and the records (R240-R247). -/
def parseTree (bytes : List Byte) : Except Error Parse :=
  match bytes with
  | [] => .error (artifactError .truncated 0)
  | version :: _ =>
    if version ≠ formatVersion then .error (artifactError .badVersion 0)
    else
      match readVarint bytes 1 with
      | .error e => .error e
      | .ok (count, pos) =>
        if count > 511 then .error (artifactError .badNodeCount 1)
        else
          match readRecords bytes count (Parse.start pos count) with
          | .error e => .error e
          | .ok p =>
            if p.need ≠ 0 then .error (artifactError .nodeMismatch p.pos) else .ok p

/-- Check a whole artifact, in byte order (R240, R248-R250). -/
def parseArtifact (bytes : List Byte) : Except Error Loaded :=
  match parseTree bytes with
  | .error e => .error e
  | .ok p =>
    match readVarint bytes p.pos with
    | .error e => .error e
    | .ok (b, pos) =>
      if bytes.length - pos < ceil8 b then .error (artifactError .payloadShort pos)
      else if bytes.length - pos > ceil8 b then .error (artifactError .trailing (pos + ceil8 b))
      else .ok ⟨p.nodes, p.leaves, b, pos⟩

/-- DESERIALIZE (43_container.md R240); a failure after the pre-checks has the effects of R253. -/
def execDeserialize (s : State) : Host.Outcome State Fault Refusal :=
  match s.rangeError with
  | some e => .next (s.raise e)
  | none =>
    match parseArtifact s.srcBytes with
    | .error e => .next (s.loseTree.raise e)
    | .ok a =>
      if ceil8 a.bitCount > s.dstCap.toNat then
        .next (s.loseTree.raise (capacityError (ceil8 a.bitCount)))
      else
        .next
          ({ s.storeDst (s.bytesAt (s.srcAddr.toNat + a.payloadAt) (ceil8 a.bitCount)) with
              node := writeNodes s.node a.nodes
              nodeCount := BitVec.ofNat 9 a.nodes.length
              root := 0
              leafCount := BitVec.ofNat 9 a.leaves
              bitCount := BitVec.ofNat 32 a.bitCount
              treeValid := true
              lutValid := false }.finish (ceil8 a.bitCount))

end Sys2Proof.Machine
end

