-- ==== Sys2Proof/Machine/Decoder.lean ====
section
/-! DEFINITION. huffman_decoder: DECODE (42_decoder.md R210-R218). -/

namespace Sys2Proof.Machine

/-- Where a walk over the bits stands: the symbols emitted, the node, and the bit its codeword began at. -/
structure Walk where
  out : List Symbol
  cur : NodeIdx
  start : Nat
deriving DecidableEq, Repr

/-- The child a bit leads to: left on 0, right on 1 (R214). -/
def childOn (bit : Bool) (l r : NodeIdx) : NodeIdx := if bit then r else l

/-- Walk the tree from `cur` over the bits from index `j` on; `start` is where the codeword began (R214).
`none` says that the walk met an index that is no internal node, or no node at all (log 14). -/
def walkBits (t : Vector Node 511) (root : NodeIdx) :
    List Bool → Nat → NodeIdx → Nat → Option Walk
  | [], _, cur, start => some ⟨[], cur, start⟩
  | bit :: bits, j, cur, start =>
    match nodeAt t cur with
    | some (.internal _ l r) =>
      match nodeAt t (childOn bit l r) with
      | some (.leaf sym _) =>
        (walkBits t root bits (j + 1) root (j + 1)).map fun w => { w with out := sym :: w.out }
      | some (.internal _ _ _) => walkBits t root bits (j + 1) (childOn bit l r) start
      | none => none
    | some (.leaf _ _) => none
    | none => none

/-- How the walk ends: the decoded symbols, an error of the stream, or no tree to walk in (R210). -/
inductive Decoded where
  | symbols (out : List Symbol)
  | failed (e : Error)
  | notATree
deriving DecidableEq, Repr

/-- Decode `nb` bits of the source with the current tree (R212-R215). -/
def State.decodeBits (s : State) (nb : Nat) : Decoded :=
  if s.nodeCount = 0 then
    if nb > 0 then .failed ⟨.corruptTree, 0, 0⟩ else .symbols []
  else
    match nodeAt s.node s.root with
    | none => .notATree
    | some (.leaf sym _) => .symbols (List.replicate nb sym)
    | some (.internal _ _ _) =>
      match walkBits s.node s.root (s.srcBits nb) 0 s.root 0 with
      | none => .notATree
      | some w =>
        if w.cur = s.root then .symbols w.out
        else .failed ⟨.traversal, 0, BitVec.ofNat 32 w.start⟩

/-- DECODE (R210). -/
def execDecode (s : State) : Host.Outcome State Fault Refusal :=
  if !s.treeValid then .next (s.raise ⟨.noTree, 0, 0⟩)
  else
    match s.rangeError with
    | some e => .next (s.raise e)
    | none =>
      if s.bitBytes > s.srcLen.toNat then .next (s.raise (lengthError s.bitBytes))
      else
        match s.decodeBits s.bitCount.toNat with
        | .notATree => .fault .notATree
        | .failed e => .next (s.raise e)
        | .symbols out =>
          if out.length > s.dstCap.toNat then .next (s.raise (capacityError out.length))
          else .next ((s.storeDst out).finish out.length)

end Sys2Proof.Machine
end

