-- ==== Sys2Proof/Machine/Encoder.lean ====
section
/-! DEFINITION. huffman_encoder: GENLUT and ENCODE (41_encoder.md R180-R190). -/

namespace Sys2Proof.Machine

/-! ### GENLUT -/

/-- Give the symbol of a visited leaf its code, the branches of its path (R181). -/
def recordCode (t : Vector Code 256) (v : Visit) : Vector Code 256 :=
  match v.node with
  | .leaf sym _ => t.set sym.toNat v.path
  | .internal _ _ _ => t

/-- The code table of the nodes met from the root on (R180).
A tree that is a single leaf has the fixed code "0" (R182); with no node, no symbol has a code. -/
def lutOf (vs : List Visit) : Vector Code 256 :=
  match vs with
  | [⟨_, .leaf sym _, _⟩] => (Vector.replicate 256 []).set sym.toNat [false]
  | vs => vs.foldl recordCode (Vector.replicate 256 [])

/-- GENLUT (R180). -/
def execGenlut (s : State) : Host.Outcome State Fault Refusal :=
  if !s.treeValid then .next (s.raise ⟨.noTree, 0, 0⟩)
  else
    match s.treeVisits with
    | none => .fault .notATree
    | some vs => .next ({ s with lut := lutOf vs, lutValid := true }.finish 0)

/-! ### ENCODE -/

/-- Concatenate the codes of the symbols from offset `i` on (R187);
the first symbol with no code is UNKNOWN_SYMBOL, SUB = the symbol, ERRINFO = its offset (R186). -/
def encodeSymbols (t : Vector Code 256) : Nat → List Byte → Except Error (List Bool)
  | _, [] => .ok []
  | i, b :: bs =>
    if codeAt t b = [] then .error ⟨.unknownSymbol, b, BitVec.ofNat 32 i⟩
    else
      match encodeSymbols t (i + 1) bs with
      | .error e => .error e
      | .ok bits => .ok (codeAt t b ++ bits)

/-- ENCODE (R185). -/
def execEncode (s : State) : Host.Outcome State Fault Refusal :=
  if !s.lutValid then .next (s.raise ⟨.noLut, 0, 0⟩)
  else
    match s.rangeError with
    | some e => .next (s.raise e)
    | none =>
      match encodeSymbols s.lut 0 s.srcBytes with
      | .error e => .next (s.raise e)
      | .ok bits =>
        if ceil8 bits.length > s.dstCap.toNat then
          .next (s.raise (capacityError (ceil8 bits.length)))
        else
          .next ({ s.storeDst (packBits bits) with bitCount := BitVec.ofNat 32 bits.length }.finish
            (ceil8 bits.length))

end Sys2Proof.Machine
end

