-- ==== Sys2Proof/Machine/Flags.lean ====
section
/-! DEFINITION. The flag computations: STATUS, ERRCODE, CTRL and irq (10_state.md R35-R45, R51). -/

namespace Sys2Proof.Machine

/-- A flag at bit `i` of a register word. -/
def flagBit (b : Bool) (i : Nat) : Word := if b then 1#32 <<< i else 0#32

/-- STATUS.BUSY is 1 exactly in BUSY(w) (R38). -/
def State.isBusy (s : State) : Bool :=
  match s.phase with
  | .idle => false
  | .busy _ => true

/-- STATUS.ERR mirrors ERRCODE.CODE != 0 (R40). -/
def State.errFlag (s : State) : Bool := s.errCode.value != 0#8

/-- The word of STATUS with the given TREE_VALID and LUT_VALID bits (R37).
While busy those two bits are any() (R62), so they are arguments here. -/
def State.statusWordWith (s : State) (treeValid lutValid : Bool) : Word :=
  flagBit s.isBusy 0 ||| flagBit s.done 1 ||| flagBit s.errFlag 2 |||
    flagBit treeValid 3 ||| flagBit lutValid 4 ||| flagBit s.overrun 5

/-- The word of STATUS while idle (R37). -/
def State.statusWord (s : State) : Word := s.statusWordWith s.treeValid s.lutValid

/-- The word of ERRCODE: CODE in bits 7:0, SUB in bits 15:8 (R44). -/
def State.errCodeWord (s : State) : Word := 0#16 ++ s.errSub ++ s.errCode.value

/-- A read of CTRL: IRQ_EN in bit 3, 0 elsewhere (R35). -/
def State.ctrlWord (s : State) : Word := flagBit s.irqEn 3

/-- The irq output (R51, 60_exceptions.md R270). -/
def State.irq (s : State) : Bool := s.done && s.irqEn

/-- A host write of `w` to CTRL (R35): SRST wins over the other bits; else IRQ_EN takes bit 3,
CLR_OVERRUN is bit 1 and ACK is bit 2. -/
def State.writeCtrl (s : State) (w : Word) : State :=
  if w.getLsbD 0 then s.softReset
  else
    ({ s with irqEn := w.getLsbD 3, overrun := s.overrun && !w.getLsbD 1 } : State).acknowledge
      (w.getLsbD 2)

end Sys2Proof.Machine
end

