-- ==== Sys2Proof/Machine/HostPort.lean ====
section
/-! DEFINITION. The host transaction port: the address map, reads and writes
(10_state.md R32-R62, 20_memory.md R80-R98). -/

namespace Sys2Proof.Machine

/-! ### The address map -/

/-- The bytes of a transaction (R80). -/
def Size.bytes : Size → Nat
  | .one => 1
  | .two => 2
  | .four => 4

/-- The host-visible registers (R32). -/
inductive Reg where
  | id
  | version
  | ctrl
  | cmd
  | status
  | errCode
  | errInfo
  | srcAddr
  | srcLen
  | dstAddr
  | dstCap
  | outLen
  | bitCount
  | nodeCount
  | root
  | leafCount
deriving DecidableEq, Repr

/-- The byte offset of a register (R32). -/
def Reg.offset : Reg → Offset
  | .id => 0x000#17
  | .version => 0x004#17
  | .ctrl => 0x008#17
  | .cmd => 0x00C#17
  | .status => 0x010#17
  | .errCode => 0x014#17
  | .errInfo => 0x018#17
  | .srcAddr => 0x01C#17
  | .srcLen => 0x020#17
  | .dstAddr => 0x024#17
  | .dstCap => 0x028#17
  | .outLen => 0x02C#17
  | .bitCount => 0x030#17
  | .nodeCount => 0x034#17
  | .root => 0x038#17
  | .leafCount => 0x03C#17

/-- The register at word `k` of the register window (R32, R82). -/
def regAt (k : Nat) : Option Reg :=
  [Reg.id, .version, .ctrl, .cmd, .status, .errCode, .errInfo, .srcAddr, .srcLen, .dstAddr, .dstCap,
    .outLen, .bitCount, .nodeCount, .root, .leafCount][k]?

/-- What a transaction reaches (R82-R88). -/
inductive Target where
  /-- A register. -/
  | reg (r : Reg)
  /-- The word of FREQ[s]. -/
  | freq (s : Symbol)
  /-- Word `k` (0..3) of NODE[i], i <= 510. -/
  | node (i : NodeIdx) (k : Nat)
  /-- Word `k` (0..15) of LUT[s]. -/
  | lut (s : Symbol) (k : Nat)
  /-- The DMEM bytes from `k` on. -/
  | dmem (k : Nat)
  /-- Nothing: reserved, the slot past NODE[510], a sub-word or misaligned access, or beyond DMEM (R84, R85, R87, R88). -/
  | nothing
deriving DecidableEq, Repr

/-- The target of an aligned word access below 0x08000 (R82, R83). -/
def windowTarget (a : Nat) : Target :=
  if a < 0x40 then
    match regAt (a / 4) with
    | some r => .reg r
    | none => .nothing
  else if a < 0x400 then .nothing
  else if a < 0x800 then .freq (BitVec.ofNat 8 ((a - 0x400) / 4))
  else if a < 0x1000 then .nothing
  else if a < 0x2FF0 then .node (BitVec.ofNat 9 ((a - 0x1000) / 16)) ((a - 0x1000) % 16 / 4)
  else if a < 0x4000 then .nothing
  else .lut (BitVec.ofNat 8 ((a - 0x4000) / 64)) ((a - 0x4000) % 64 / 4)

/-- The target of a transaction: the whole host address map (R82-R88). -/
def target (p : Config.Params) (n : Size) (off : Offset) : Target :=
  if off.toNat < 0x8000 then
    if n = .four ∧ off.toNat % 4 = 0 then windowTarget off.toNat else .nothing
  else if off.toNat < 0x10000 then .nothing
  else if (off.toNat - 0x10000) % n.bytes = 0 ∧ off.toNat - 0x10000 + n.bytes ≤ p.dmemBytes then
    .dmem (off.toNat - 0x10000)
  else .nothing

/-! ### Little-endian data -/

/-- The low `n` bytes of a word, the least significant first (R86). -/
def bytesOfWord (n : Nat) (v : Word) : List Byte :=
  (List.range n).map fun i => v.extractLsb' (8 * i) 8

/-- The word of at most four bytes, the least significant first (R86). -/
def wordOfBytes : List Byte → Word
  | [] => 0#32
  | b :: bs => (b.setWidth 32) ||| (wordOfBytes bs <<< 8)

/-- The low `n` bytes of a word, zero-extended. -/
def lowBytes (n : Nat) (v : Word) : Word := v &&& BitVec.ofNat 32 (2 ^ (8 * n) - 1)

/-! ### Host views of the tables -/

/-- Word `k` of a NODE entry (R55). -/
def nodeWord (n : Node) (k : Nat) : Word :=
  match k, n with
  | 0, .leaf sym _ => 0#16 ++ sym ++ 1#8
  | 0, .internal _ _ _ => 0#32
  | 1, .leaf _ _ => 0#32
  | 1, .internal _ l r => 0#7 ++ r ++ 0#7 ++ l
  | 2, n => n.weight.setWidth 32
  | 3, n => (n.weight >>> 32).setWidth 32
  | _, _ => 0#32

/-- CODE word `k`: bit `31 - m` holds `code[32k + m]`, and 0 past the code's end (R58). -/
def codeWord (c : Code) (k : Nat) : Word :=
  (List.range 32).foldl
    (fun v m => if c.getD (32 * k + m) false then v + (1#32 <<< (31 - m)) else v) 0#32

/-- Word `k` of a LUT entry: LEN, then zeros, then the code (R58). -/
def lutWord (c : Code) (k : Nat) : Word :=
  if k = 0 then (BitVec.ofNat 8 c.length).setWidth 32
  else if k < 8 then 0#32
  else codeWord c (k - 8)

/-! ### Reads -/

/-- ID (R33). -/
def idWord : Word := 0x48554646#32

/-- VERSION (R34). -/
def versionWord : Word := 0x00000001#32

/-- The exact value of a register (R33-R50): what a read gives while idle, and in every phase for the registers of
R62's second list. -/
def State.regWord (s : State) : Reg → Word
  | .id => idWord
  | .version => versionWord
  | .ctrl => s.ctrlWord
  | .cmd => 0#32
  | .status => s.statusWord
  | .errCode => s.errCodeWord
  | .errInfo => s.errInfo
  | .srcAddr => s.srcAddr
  | .srcLen => s.srcLen
  | .dstAddr => s.dstAddr
  | .dstCap => s.dstCap
  | .outLen => s.outLen
  | .bitCount => s.bitCount
  | .nodeCount => s.nodeCount.setWidth 32
  | .root => s.root.setWidth 32
  | .leafCount => s.leafCount.setWidth 32

/-- A register the running command will write, so that a read while busy gives any() (R62). -/
def Reg.isOutput : Reg → Bool
  | .id => false
  | .version => false
  | .ctrl => false
  | .cmd => false
  | .status => false
  | .errCode => false
  | .errInfo => false
  | .srcAddr => false
  | .srcLen => false
  | .dstAddr => false
  | .dstCap => false
  | .outLen => true
  | .bitCount => true
  | .nodeCount => true
  | .root => true
  | .leafCount => true

/-- A read of a register while busy (R62): STATUS with free TREE_VALID and LUT_VALID bits,
an output register any(), the others exact (log 9). -/
def State.readRegBusy (s : State) (r : Reg) : Word × State :=
  if r.isOutput then s.drawWord
  else if r = .status then
    (s.statusWordWith (s.drawWord.1.getLsbD 3) (s.drawWord.1.getLsbD 4), s.drawWord.2)
  else (s.regWord r, s)

/-- A fresh any() of `n` bytes. -/
def State.drawBytes (s : State) (n : Nat) : Word × State :=
  (lowBytes n s.drawWord.1, s.drawWord.2)

/-- A host read (R83-R88, R94): the data, and the state it leaves, which differs only in the draws (logs 8, 9).
An access that is not performed reads 0 in every phase (log 10). -/
def State.hostRead (s : State) (n : Size) (off : Offset) : Word × State :=
  match target s.cfg n off with
  | .nothing => (0#32, s)
  | .reg r => if s.isBusy then s.readRegBusy r else (s.regWord r, s)
  | .freq sym => (freqAt s.freq sym, s)
  | .node i k =>
    if s.isBusy then s.drawWord
    else if s.nodeCount.toNat ≤ i.toNat then s.drawWord
    else
      match nodeAt s.node i with
      | some e => (nodeWord e k, s)
      | none => s.drawWord
  | .lut sym k => if s.isBusy then s.drawWord else (lutWord (codeAt s.lut sym) k, s)
  | .dmem k => if s.isBusy then s.drawBytes n.bytes else (wordOfBytes (s.bytesAt k n.bytes), s)

/-! ### Writes -/

/-- A host write of a whole word to a register while idle (R33-R50).
A write to a read-only register is ignored (R83); a write to CMD issues a command (R36). -/
def State.writeReg (s : State) (r : Reg) (v : Word) : State :=
  match r with
  | .ctrl => s.writeCtrl v
  | .cmd => s.issue v
  | .srcAddr => { s with srcAddr := v }
  | .srcLen => { s with srcLen := v }
  | .dstAddr => { s with dstAddr := v }
  | .dstCap => { s with dstCap := v }
  | .bitCount => { s with bitCount := v }
  | .id => s
  | .version => s
  | .status => s
  | .errCode => s
  | .errInfo => s
  | .outLen => s
  | .nodeCount => s
  | .root => s
  | .leafCount => s

/-- A host write while idle (R83-R88). -/
def State.hostWriteIdle (s : State) (n : Size) (off : Offset) (v : Word) : State :=
  match target s.cfg n off with
  | .nothing => s
  | .reg r => s.writeReg r v
  | .freq sym => { s with freq := s.freq.set sym.toNat v }
  | .node _ _ => s
  | .lut _ _ => s
  | .dmem k => s.store k (bytesOfWord n.bytes v)

/-- A host write while busy (R93): CTRL is written, every other write is dropped and sets OVERRUN,
a sub-word or misaligned one at CTRL too (R84, log 11). -/
def State.hostWriteBusy (s : State) (n : Size) (off : Offset) (v : Word) : State :=
  if target s.cfg n off = .reg .ctrl then s.writeCtrl v else { s with overrun := true }

/-- A host write (R83-R88, R93). -/
def State.hostWrite (s : State) (n : Size) (off : Offset) (v : Word) : State :=
  if s.isBusy then s.hostWriteBusy n off v else s.hostWriteIdle n off v

end Sys2Proof.Machine
end

