-- ==== Sys2Proof/Machine/Engine.lean ====
section
/-! DEFINITION. The steps of the two agents: the engine's completion (60_exceptions.md R262) and the host's
transactions and reset (20_memory.md R80, 70_reset_and_hazards.md R300). -/

namespace Sys2Proof.Machine

/-- ILLEGAL_CMD, ERRINFO = the word (30_encoding.md R114). -/
def illegalError (w : Word) : Error := ⟨.illegalCmd, 0, w⟩

/-- The completion of the command of word `w`: decode it and run its rule, or raise ILLEGAL_CMD (R262). -/
def complete (w : Word) (s : State) : Host.Outcome State Fault Refusal :=
  match Sys2Proof.decode w with
  | .ok i => exec i s
  | .error _ => .next (s.raise (illegalError w))

/-- The engine's step: the completion of the running command.
An idle engine has no step (R282), and the state stays (log 2). -/
def engineStep (s : State) : Host.Outcome State Fault Refusal :=
  match s.phase with
  | .idle => .next s
  | .busy w => complete w s

/-- One event (log 1): a host transaction, whose read data goes to the port (log 12), a hardware reset,
or the engine's step. -/
def eventStep (e : Event) (s : State) : Host.Outcome State Fault Refusal :=
  match e with
  | .hostRead n off => .next { (s.hostRead n off).2 with readData := (s.hostRead n off).1 }
  | .hostWrite n off v => .next (s.hostWrite n off v)
  | .resetPulse => .next s.hardReset
  | .engineTurn => engineStep s

/-- One step of the block: the oldest event, and the engine's step when none is due (log 1).
So a busy engine completes after finitely many steps (R322). -/
def blockStep (s : State) : Host.Outcome State Fault Refusal :=
  match s.events with
  | e :: rest => eventStep e { s with events := rest }
  | [] => engineStep s

/-- The state whose next step runs the command of word `w`: the word issued as a CMD write issues it (R261),
and no host transaction due before the completion (log 3). -/
def State.placeCommand (s : State) (w : Word) : State := { s.issue w with events := [] }

end Sys2Proof.Machine
end

