-- ==== Sys2Proof/Machine/Step.lean ====
section
/-! DEFINITION. One step, and placing a command for the next step. -/

namespace Sys2Proof.Machine

/-- One step of huffman_codec_core. -/
def step (s : State) : Host.Outcome State Fault Refusal := blockStep s

/-- Place the command word `w` (its bits from `nbits` on zero) where the next step runs it (log 3). -/
def State.withFetchWord (s : State) (nbits w : Nat) : State :=
  s.placeCommand (BitVec.ofNat 32 (w % 2 ^ nbits))

end Sys2Proof.Machine
end

