-- ==== Sys2Proof/Machine/HostScript.lean ====
section
/-! DEFINITION. The host-script notation and its bus transactions (30_encoding.md R118, R119).
The notation is the host's, not the block's (D39): no step depends on this file (log 21). -/

namespace Sys2Proof.Machine

/-- An operation or a pseudo-operation of a host script.
`wait` names how many reads of STATUS still see BUSY = 1, which no rule fixes (70_reset_and_hazards.md R322). -/
inductive ScriptOp where
  | wr (r : Reg) (v : Word)
  | rd (r : Reg)
  | wrf (s : Symbol) (v : Word)
  | rdf (s : Symbol)
  | rdn (i k : Nat)
  | rdl (s : Symbol) (k : Nat)
  | wrb (k : Nat) (bytes : List Byte)
  | rdb (k : Nat)
  | cmd (i : Instr)
  | wait (polls : Nat)
  | run (i : Instr) (polls : Nat)
  | srst
  | ack
  | ackie
  | clrovr
  | setsrc (a n : Word)
  | setdst (a c : Word)
deriving DecidableEq, Repr

/-- `W4(a, v)` (R118). -/
def w4 (a : Nat) (v : Word) : Event := .hostWrite .four (BitVec.ofNat 17 a) v

/-- `W1(a, v)` (R118). -/
def w1 (a : Nat) (v : Byte) : Event := .hostWrite .one (BitVec.ofNat 17 a) (v.setWidth 32)

/-- `R4(a)` (R118). -/
def r4 (a : Nat) : Event := .hostRead .four (BitVec.ofNat 17 a)

/-- `R1(a)` (R118). -/
def r1 (a : Nat) : Event := .hostRead .one (BitVec.ofNat 17 a)

/-- `wr NAME, v` (R118). -/
def wrReg (r : Reg) (v : Word) : Event := w4 r.offset.toNat v

/-- `rd NAME` (R118). -/
def rdReg (r : Reg) : Event := r4 r.offset.toNat

/-- `wait` (R119): reads of STATUS, the completion, and the read that sees BUSY = 0. -/
def waitEvents (polls : Nat) : List Event :=
  List.replicate polls (rdReg .status) ++ [.engineTurn, rdReg .status]

/-- The transactions of an operation (R118, R119). -/
def ScriptOp.expand : ScriptOp → List Event
  | .wr r v => [wrReg r v]
  | .rd r => [rdReg r]
  | .wrf s v => [w4 (0x400 + 4 * s.toNat) v]
  | .rdf s => [r4 (0x400 + 4 * s.toNat)]
  | .rdn i k => [r4 (0x1000 + 16 * i + 4 * k)]
  | .rdl s k => [r4 (0x4000 + 64 * s.toNat + 4 * k)]
  | .wrb k bytes => bytes.zipIdx.map fun (b, j) => w1 (0x10000 + k + j) b
  | .rdb k => [r1 (0x10000 + k)]
  | .cmd i => [wrReg .cmd (encode i)]
  | .wait polls => waitEvents polls
  | .run i polls => wrReg .cmd (encode i) :: waitEvents polls
  | .srst => [wrReg .ctrl 0x00000001#32]
  | .ack => [wrReg .ctrl 0x00000004#32]
  | .ackie => [wrReg .ctrl 0x0000000C#32]
  | .clrovr => [wrReg .ctrl 0x00000002#32]
  | .setsrc a n => [wrReg .srcAddr a, wrReg .srcLen n]
  | .setdst a c => [wrReg .dstAddr a, wrReg .dstCap c]

/-- The transactions of a script, in order. -/
def script (ops : List ScriptOp) : List Event := ops.flatMap ScriptOp.expand

end Sys2Proof.Machine
end

