-- ==== Sys2Proof/Safety.lean ====
section
/-! DEFINITION. The terms claims use: strict binary trees and what NODE holds of one (10_state.md R56), code tables
(R59), artifacts as the spec lays them out (30_encoding.md R140), the invariants of the machine, and frames.
Nothing here is run by a step. -/

namespace Sys2Proof.Machine

/-! ### Trees -/

/-- The shape of a strict binary tree: what an artifact carries of it (00_scope.md R16, 30_encoding.md R147). -/
inductive Shape where
  | leaf (sym : Symbol)
  | node (left right : Shape)
deriving DecidableEq, Repr

/-- A strict binary tree laid out in NODE: each node with its index and weight (10_state.md R54). -/
inductive Tree where
  | leaf (i : NodeIdx) (sym : Symbol) (weight : Weight)
  | node (i : NodeIdx) (weight : Weight) (left right : Tree)
deriving DecidableEq, Repr

/-- The index of the root. -/
def Tree.idx : Tree → NodeIdx
  | .leaf i _ _ => i
  | .node i _ _ _ => i

/-- The weight of the root. -/
def Tree.weight : Tree → Weight
  | .leaf _ _ w => w
  | .node _ w _ _ => w

/-- The indices of all nodes, in pre-order. -/
def Tree.indices : Tree → List Nat
  | .leaf i _ _ => [i.toNat]
  | .node i _ l r => i.toNat :: (l.indices ++ r.indices)

/-- The symbols of the leaves, from left to right. -/
def Tree.symbols : Tree → List Symbol
  | .leaf _ sym _ => [sym]
  | .node _ _ l r => l.symbols ++ r.symbols

/-- The shape, with indices and weights left out. -/
def Tree.shape : Tree → Shape
  | .leaf _ sym _ => .leaf sym
  | .node _ _ l r => .node l.shape r.shape

/-- Each leaf with the branches from the root to it, first branch first: 0 left, 1 right (41_encoder.md R181). -/
def Tree.paths : Tree → List (Symbol × Code)
  | .leaf _ sym _ => [(sym, [])]
  | .node _ _ l r =>
    (l.paths.map fun p => (p.1, false :: p.2)) ++ (r.paths.map fun p => (p.1, true :: p.2))

/-- The code of a symbol (R181), and the fixed code "0" of a tree that is one leaf (R182);
`[]` for a symbol that is not in the tree. -/
def Tree.codeOf : Tree → Symbol → Code
  | .leaf _ a _, sym => if sym = a then [false] else []
  | .node i w l r, sym =>
    match (Tree.node i w l r).paths.find? (fun p => p.1 == sym) with
    | some p => p.2
    | none => []

/-- Every Internal weight is the exact sum of its children's weights (00_scope.md R14, 40_tree_builder.md R168). -/
def Tree.weightsAdd : Tree → Prop
  | .leaf _ _ _ => True
  | .node _ w l r => w.toNat = l.weight.toNat + r.weight.toNat ∧ l.weightsAdd ∧ r.weightsAdd

/-- The NODE table holds the tree: each node's entry stands at its index (10_state.md R54). -/
def Tree.heldBy (t : Vector Node 511) : Tree → Prop
  | .leaf i sym w => nodeAt t i = some (.leaf sym w)
  | .node i w l r => nodeAt t i = some (.internal w l.idx r.idx) ∧ l.heldBy t ∧ r.heldBy t

/-- The leaves of a shape, from left to right. -/
def Shape.symbols : Shape → List Symbol
  | .leaf sym => [sym]
  | .node l r => l.symbols ++ r.symbols

/-- The number of nodes of a shape. -/
def Shape.size : Shape → Nat
  | .leaf _ => 1
  | .node l r => 1 + l.size + r.size

/-- The records of a shape in pre-order (30_encoding.md R145-R147). -/
def Shape.records : Shape → List Byte
  | .leaf sym => [0x01#8, sym]
  | .node l r => 0x00#8 :: (l.records ++ r.records)

/-- The records of a shape one by one, in pre-order (30_encoding.md R147). -/
def Shape.recordList : Shape → List (List Byte)
  | .leaf sym => [[0x01#8, sym]]
  | .node l r => [0x00#8] :: (l.recordList ++ r.recordList)

/-- The bytes of the first `k` records of a shape: what DESERIALIZE has read before record `k` (43_container.md R244). -/
def Shape.prefixBytes (sh : Shape) (k : Nat) : List Byte := (sh.recordList.take k).flatten

/-- No symbol stands in two of the first `k` records: a Leaf record is the one of two bytes (43_container.md R246). -/
def Shape.distinctUpTo (sh : Shape) (k : Nat) : Prop :=
  ((sh.recordList.take k).filter fun r => r.length == 2).Nodup

/-- The number of nodes, and the records, of the tree of an artifact; `none` is the empty tree (R144, R147). -/
def Shape.sizeOf : Option Shape → Nat
  | none => 0
  | some sh => sh.size

/-- The records of the tree of an artifact (R147). -/
def Shape.recordsOf : Option Shape → List Byte
  | none => []
  | some sh => sh.records

/-- The artifact of a tree, a bit count and a payload, field by field (30_encoding.md R140). -/
def artifactOf (tree : Option Shape) (bitCount : Nat) (payload : List Byte) : List Byte :=
  [0x01#8] ++ varint (Shape.sizeOf tree) ++ Shape.recordsOf tree ++ varint bitCount ++ payload

/-- Byte `i` (0..4) of the varint field that begins at `start` is at fault, and `sub` says how (30_encoding.md R142):
the bytes before it all say that another follows; it is missing (TRUNCATED, 0x01), or it is a fifth byte above 0x0F
or a second or later byte 0x00 (BAD_VARINT, 0x03). -/
def varintFails (bytes : List Byte) (start i : Nat) (sub : Byte) : Prop :=
  i ≤ 4 ∧ (∀ j : Nat, j < i → ∃ b : Byte, bytes[start + j]? = some b ∧ b.getLsbD 7 = true) ∧
    ((sub = 0x01#8 ∧ bytes[start + i]? = none) ∨
      (sub = 0x03#8 ∧ ∃ b : Byte, bytes[start + i]? = some b ∧
        ((i = 4 ∧ 0x0F < b.toNat) ∨ (1 ≤ i ∧ b = 0x00#8))))

/-! ### What the state holds -/

/-- The entry is a Leaf entry (10_state.md R54). -/
def isLeafEntry : Option Node → Bool
  | some (.leaf _ _) => true
  | some (.internal _ _ _) => false
  | none => false

/-- How many of the entries NODE[0..n-1] are Leaf entries (10_state.md R56, item 4). -/
def leafEntries (t : Vector Node 511) (n : Nat) : Nat :=
  (List.range n).countP fun i => isLeafEntry t[i]?

/-- The counts of the empty tree (10_state.md R56, R63). -/
def State.emptyTree (s : State) : Prop := s.nodeCount = 0#9 ∧ s.root = 0#9 ∧ s.leafCount = 0#9

/-- NODE, NODE_COUNT, ROOT and LEAF_COUNT hold the tree `T` (10_state.md R56):
every index below NODE_COUNT is reached from ROOT exactly once, and the symbols of the leaves are distinct. -/
def State.holdsTree (s : State) (T : Tree) : Prop :=
  T.idx = s.root ∧ T.heldBy s.node ∧ T.indices.Perm (List.range s.nodeCount.toNat) ∧
    T.symbols.Nodup ∧ T.symbols.length = s.leafCount.toNat

/-- The tree invariant (10_state.md R56); with TREE_VALID = 0 the counts are those of the empty tree
(R63, 43_container.md R253). -/
def State.TreeInv (s : State) : Prop :=
  (s.treeValid = true → s.emptyTree ∨ ∃ T : Tree, s.holdsTree T) ∧
    (s.treeValid = false → s.emptyTree)

/-- The LUT holds the code table of the current tree (10_state.md R59). -/
def State.holdsCodes (s : State) : Prop :=
  (s.emptyTree ∧ ∀ sym : Symbol, codeAt s.lut sym = []) ∨
    ∃ T : Tree, s.holdsTree T ∧ ∀ sym : Symbol, codeAt s.lut sym = T.codeOf sym

/-- The LUT invariant (10_state.md R59). -/
def State.LutInv (s : State) : Prop :=
  s.lutValid = true → s.treeValid = true ∧ s.holdsCodes

/-- No code is longer than MAX_CODE_LEN = 255 (00_scope.md R6, 10_state.md R57). -/
def State.CodesFit (s : State) : Prop := ∀ sym : Symbol, (codeAt s.lut sym).length ≤ 255

/-- While busy, DONE, ERRCODE and ERRINFO read 0 (10_state.md R39, R44, R45). -/
def State.ReportInv (s : State) : Prop :=
  s.isBusy = true → s.done = false ∧ s.errCode = .none ∧ s.errSub = 0#8 ∧ s.errInfo = 0#32

/-- The parameters are in range and DMEM is in canonical form (00_scope.md R7, 10_state.md R60). -/
def State.MemInv (s : State) : Prop :=
  s.cfg.wellFormed = true ∧ Mem.wf s.cfg.dmemBytes s.dmem = true

/-! ### What BUILD is to make of FREQ -/

/-- The present symbols, in ascending value (10_state.md R52, 40_tree_builder.md R160). -/
def presentIn (freq : Vector Word 256) : List Symbol :=
  ((List.range 256).map fun n => BitVec.ofNat 8 n).filter fun sym => freqAt freq sym != 0#32

/-- The weight of NODE[j] as a number. -/
def weightAt (t : Vector Node 511) (j : Nat) : Nat :=
  match t[j]? with
  | some n => n.weight.toNat
  | none => 0

/-- `key(i) < key(j)` (40_tree_builder.md R162). -/
def keyBefore (t : Vector Node 511) (i j : Nat) : Prop :=
  weightAt t i < weightAt t j ∨ (weightAt t i = weightAt t j ∧ i < j)

/-- The indices of a node's children. -/
def Node.children : Node → List Nat
  | .leaf _ _ => []
  | .internal _ l r => [l.toNat, r.toNat]

/-- NODE[j] is in the priority set when NODE[next] is about to be made: it exists by then,
and none of the merges NODE[first..next-1] has taken it (40_tree_builder.md R161, R163). -/
def inPrioritySet (t : Vector Node 511) (first next j : Nat) : Prop :=
  j < next ∧ ∀ m : Nat, first ≤ m → m < next → ∀ n : Node, t[m]? = some n → j ∉ n.children

/-! ### Operand conditions -/

/-- The tree of an artifact, if the state holds it: `none` is the empty tree. -/
def State.holdsShape (s : State) : Option Shape → Prop
  | none => s.emptyTree
  | some sh => ∃ T : Tree, s.holdsTree T ∧ T.shape = sh

/-- The symbols of the tree of an artifact are distinct (10_state.md R56, 43_container.md R246). -/
def Shape.distinct : Option Shape → Prop
  | none => True
  | some sh => sh.symbols.Nodup

/-- Both ranges lie in DMEM and share no byte (20_memory.md R90, R91). -/
def State.rangesFit (s : State) : Prop :=
  s.srcAddr.toNat + s.srcLen.toNat ≤ s.cfg.dmemBytes ∧
    s.dstAddr.toNat + s.dstCap.toNat ≤ s.cfg.dmemBytes ∧
    (s.srcLen.toNat = 0 ∨ s.dstCap.toNat = 0 ∨
      s.dstAddr.toNat + s.dstCap.toNat ≤ s.srcAddr.toNat ∨
      s.srcAddr.toNat + s.srcLen.toNat ≤ s.dstAddr.toNat)

/-- A command that has a source and a destination range (30_encoding.md R116). -/
def usesRanges : Instr → Bool
  | .build => false
  | .genlut => false
  | .encode => true
  | .decode => true
  | .serialize => true
  | .deserialize => true

/-- The prerequisite flag of a command (60_exceptions.md R267 step 2). -/
def State.prerequisite (s : State) : Instr → Bool
  | .build => true
  | .genlut => s.treeValid
  | .encode => s.lutValid
  | .decode => s.treeValid
  | .serialize => s.treeValid
  | .deserialize => true

/-! ### Frames -/

/-- What no command writes: the parameters, CTRL, OVERRUN, the operand registers, FREQ,
and the model's record of the host side. -/
def State.sameInputs (s t : State) : Prop :=
  t.cfg = s.cfg ∧ t.irqEn = s.irqEn ∧ t.overrun = s.overrun ∧ t.srcAddr = s.srcAddr ∧
    t.srcLen = s.srcLen ∧ t.dstAddr = s.dstAddr ∧ t.dstCap = s.dstCap ∧ t.freq = s.freq ∧
    t.powerOn = s.powerOn ∧ t.events = s.events ∧ t.readData = s.readData

/-- The tree and its validity are unchanged. -/
def State.sameTree (s t : State) : Prop :=
  t.treeValid = s.treeValid ∧ t.node = s.node ∧ t.nodeCount = s.nodeCount ∧ t.root = s.root ∧
    t.leafCount = s.leafCount

/-- The code table and its validity are unchanged. -/
def State.sameCodes (s t : State) : Prop := t.lutValid = s.lutValid ∧ t.lut = s.lut

/-- Every byte of DMEM is unchanged. -/
def State.sameMemory (s t : State) : Prop := ∀ a : Nat, t.byteAt a = s.byteAt a

/-- Every byte of DMEM is unchanged but the `n` bytes from `a` on. -/
def State.sameMemoryBut (s t : State) (a n : Nat) : Prop :=
  ∀ b : Nat, b < a ∨ a + n ≤ b → t.byteAt b = s.byteAt b

/-- The state reports success: the completion of 60_exceptions.md R262, R263. -/
def State.succeeded (t : State) (out : Nat) : Prop :=
  t.phase = .idle ∧ t.done = true ∧ t.errCode = .none ∧ t.errSub = 0#8 ∧ t.errInfo = 0#32 ∧
    t.outLen = BitVec.ofNat 32 out

/-- The state reports an error: the completion of 60_exceptions.md R262, R264. -/
def State.failedWith (t : State) (e : Error) : Prop :=
  t.phase = .idle ∧ t.done = true ∧ t.errCode = e.code ∧ t.errSub = e.sub ∧ t.errInfo = e.info ∧
    t.outLen = 0#32

/-- A pre-check error: the completion state changes and nothing else (60_exceptions.md R266). -/
def State.preCheckFailed (s : State) (e : Error) : State :=
  { s with phase := .idle, done := true, errCode := e.code, errSub := e.sub, errInfo := e.info,
           outLen := 0#32 }

end Sys2Proof.Machine
end

