-- ==== Sys2Proof/Certificates/Slice0/Obligations.lean ====
section
/-! DEFINITION. The statements for the provers, in the order of OBLIGATIONS.json. -/

open Sys2Proof Sys2Proof.Machine

/-! ### Command words -/

/-- The words of 95_test_vectors.md V6, written out from format CMD32 (30_encoding.md R110, R113):
six commands, and six words refused. -/
def Obligations.ListedWordsDecode : Prop :=
  decode 0x00000001#32 = .ok .build ∧ decode 0x00000002#32 = .ok .genlut ∧
  decode 0x00000003#32 = .ok .encode ∧ decode 0x00000004#32 = .ok .decode ∧
  decode 0x00000005#32 = .ok .serialize ∧ decode 0x00000006#32 = .ok .deserialize ∧
  ∀ w ∈ [0x00000000#32, 0x00000007#32, 0x000000FF#32, 0x00000101#32, 0x00000107#32, 0x80000003#32],
    ∀ i : Instr, decode w ≠ .ok i

/-- 30_encoding.md R111: a word is legal exactly when bits 31:8 are 0 and bits 7:0 are one of 0x01..0x06,
and a legal word selects the command of its opcode.
R113: the legal words are exactly 0x00000001 .. 0x00000006. -/
def Obligations.DecodeAcceptsExactlyLegalWords : Prop :=
  (∀ w : Word, (∃ i : Instr, decode w = .ok i) ↔
    w.extractLsb' 8 24 = 0#24 ∧ 1 ≤ (w.extractLsb' 0 8).toNat ∧ (w.extractLsb' 0 8).toNat ≤ 6) ∧
  (∀ w : Word, (∃ i : Instr, decode w = .ok i) ↔ 1 ≤ w.toNat ∧ w.toNat ≤ 6) ∧
  (∀ (w : Word) (i : Instr), decode w = .ok i ↔ w = encode i)

/-! ### The step -/

/-- The step runs the decoded command (60_exceptions.md R262), with the model's list of events around it
(logs 1, 2, 3): with no event due, or on the engine's turn, a busy engine's step is `exec` of the command;
a placed command is the very next thing to run; an event of the host is that transaction; an idle block stays. -/
def Obligations.StepRunsDecodedCommand : Prop :=
  (∀ (s : State) (w : Word) (i : Instr), s.phase = .busy w → decode w = .ok i →
    (s.events = [] → step s = exec i s) ∧
    (∀ rest, s.events = .engineTurn :: rest → step s = exec i { s with events := rest })) ∧
  (∀ (s : State) (i : Instr),
    step (s.withFetchWord 32 (encode i).toNat) = exec i (s.withFetchWord 32 (encode i).toNat)) ∧
  (∀ (s : State) (n : Size) (off : Offset) (v : Word) (rest : List Event),
    s.events = .hostWrite n off v :: rest →
      step s = .next (({ s with events := rest } : State).hostWrite n off v)) ∧
  (∀ (s : State) (n : Size) (off : Offset) (rest : List Event),
    s.events = .hostRead n off :: rest →
      step s = .next { (({ s with events := rest } : State).hostRead n off).2 with
        readData := (({ s with events := rest } : State).hostRead n off).1 }) ∧
  (∀ (s : State) (rest : List Event), s.events = .resetPulse :: rest →
    step s = .next ({ s with events := rest } : State).hardReset) ∧
  (∀ s : State, s.phase = .idle → s.events = [] → step s = .next s)

/-- 30_encoding.md R114: an illegal word (opcode 0x00 or 0x07..0xFF, or RSVD not 0) is issued by a CMD write and completes with
ILLEGAL_CMD, ERRINFO = the word; no other state changes. -/
def Obligations.IllegalWordReportsIllegalCmd : Prop :=
  ∀ (s : State) (w : Word), s.phase = .idle → s.events = [] →
    (w.extractLsb' 8 24 ≠ 0#24 ∨ w.extractLsb' 0 8 = 0#8 ∨ 7 ≤ (w.extractLsb' 0 8).toNat) →
    (s.hostWrite .four 0x00C#17 w).phase = .busy w ∧
    step (s.hostWrite .four 0x00C#17 w) =
      .next { s with done := true, errCode := .illegalCmd, errSub := 0#8, errInfo := w, outLen := 0#32 } ∧
    ∀ t : State, step (s.hostWrite .four 0x00C#17 w) = .next t → t.errCodeWord = 0x00000001#32

/-! ### Reset and invariants -/

/-- The values 10_state.md R63 gives, after rst_n at power-on, after a later rst_n, and after CTRL.SRST. -/
def Obligations.ResetsGiveListedValues : Prop :=
  ∀ s t : State, t = State.reset ∨ t = s.hardReset ∨ t = s.softReset →
    t.phase = .idle ∧ t.irqEn = false ∧ t.done = false ∧ t.treeValid = false ∧ t.lutValid = false ∧
    t.overrun = false ∧ t.errCodeWord = 0#32 ∧ t.errInfo = 0#32 ∧ t.srcAddr = 0#32 ∧ t.srcLen = 0#32 ∧
    t.dstAddr = 0#32 ∧ t.dstCap = 0#32 ∧ t.outLen = 0#32 ∧ t.bitCount = 0#32 ∧ t.nodeCount = 0#9 ∧
    t.root = 0#9 ∧ t.leafCount = 0#9 ∧ (∀ sym : Symbol, freqAt t.freq sym = 0#32) ∧ t.irq = false

/-- 70_reset_and_hazards.md R302, R303: a soft reset keeps DMEM, but for the destination range of an aborted ENCODE,
DECODE, SERIALIZE or DESERIALIZE, clipped to DMEM, each byte of which is a fresh free value (logs 5 and 17: it holds for every one). -/
def Obligations.SoftResetKeepsMemory : Prop :=
  (∀ s : State, (s.phase = .idle ∨ ∃ w, s.phase = .busy w ∧
      (decode w = .ok .build ∨ decode w = .ok .genlut ∨ ∀ i : Instr, decode w ≠ .ok i)) →
    s.sameMemory s.softReset) ∧
  (∀ (s : State) (w : Word) (i : Instr), s.phase = .busy w → decode w = .ok i → usesRanges i = true →
    (∀ a : Nat, a < s.dstAddr.toNat ∨ s.dstAddr.toNat + s.dstCap.toNat ≤ a ∨ s.cfg.dmemBytes ≤ a →
      s.softReset.byteAt a = s.byteAt a) ∧
    (∀ j : Nat, j < s.dstCap.toNat → s.dstAddr.toNat + j < s.cfg.dmemBytes →
      s.softReset.byteAt (s.dstAddr.toNat + j) = Config.freeByte s.draws j))

/-- The state after reset meets every invariant stated below. -/
def Obligations.ResetMeetsInvariants : Prop :=
  State.reset.MemInv ∧ State.reset.ReportInv ∧ State.reset.TreeInv ∧ State.reset.LutInv ∧
    State.reset.CodesFit

/-- Every step keeps DMEM in canonical form and inside DMEM_BYTES (10_state.md R60, 20_memory.md R90). -/
def Obligations.StepKeepsMemoryForm : Prop :=
  ∀ s t : State, s.MemInv → step s = .next t → t.MemInv

/-- Every step keeps DONE, ERRCODE and ERRINFO at 0 while busy (10_state.md R39, R44, R45). -/
def Obligations.StepKeepsBusyReportClear : Prop :=
  ∀ s t : State, s.ReportInv → step s = .next t → t.ReportInv

/-- Every step keeps the tree invariant (10_state.md R56): BUILD and DESERIALIZE establish it, nothing else writes NODE. -/
def Obligations.StepKeepsTreeInvariant : Prop :=
  ∀ s t : State, s.TreeInv → step s = .next t → t.TreeInv

/-- Every step keeps the LUT invariant (10_state.md R59). -/
def Obligations.StepKeepsLutInvariant : Prop :=
  ∀ s t : State, s.TreeInv → s.LutInv → step s = .next t → t.LutInv

/-- Every step keeps every code within MAX_CODE_LEN = 255 bits (00_scope.md R6, 10_state.md R57). -/
def Obligations.StepKeepsCodeLengths : Prop :=
  ∀ s t : State, s.TreeInv → s.CodesFit → step s = .next t → t.CodesFit

/-- 10_state.md R56, items 1, 2, 4 and 5: what a valid tree's counts and entries are, the empty tree included, and that the root is
no node's child and no node's two children are one. -/
def Obligations.ValidTreeShape : Prop :=
  ∀ s : State, s.TreeInv → s.treeValid = true →
    (s.nodeCount = 0#9 → s.leafCount = 0#9 ∧ s.root = 0#9) ∧
    (s.nodeCount ≠ 0#9 → 1 ≤ s.leafCount.toNat ∧ s.nodeCount.toNat = 2 * s.leafCount.toNat - 1 ∧
      s.root.toNat < s.nodeCount.toNat) ∧
    (∀ (i : NodeIdx) (w : Weight) (l r : NodeIdx), i.toNat < s.nodeCount.toNat →
      nodeAt s.node i = some (.internal w l r) →
      l.toNat < s.nodeCount.toNat ∧ r.toNat < s.nodeCount.toNat ∧ l ≠ s.root ∧ r ≠ s.root ∧ l ≠ r) ∧
    leafEntries s.node s.nodeCount.toNat = s.leafCount.toNat ∧
    (∀ (i j : NodeIdx) (sym : Symbol) (v w : Weight), i.toNat < s.nodeCount.toNat →
      j.toNat < s.nodeCount.toNat → nodeAt s.node i = some (.leaf sym v) →
      nodeAt s.node j = some (.leaf sym w) → i = j) ∧
    (s.nodeCount = 1#9 → ∃ sym w, nodeAt s.node s.root = some (.leaf sym w))

/-! ### Every command ends -/

/-- 70_reset_and_hazards.md R321, 60_exceptions.md R260: over a state that meets the tree invariant every command
completes, with DONE set and the engine idle; so irq follows IRQ_EN (60_exceptions.md R270). -/
def Obligations.EveryCommandCompletes : Prop :=
  ∀ (i : Instr) (s : State), s.TreeInv →
    ∃ t : State, exec i s = .next t ∧ t.phase = .idle ∧ t.done = true ∧ t.irq = s.irqEn

/-- 70_reset_and_hazards.md R322: whatever the host does meanwhile, a busy engine becomes idle,
within one step more than there are events due. -/
def Obligations.BusyEngineBecomesIdle : Prop :=
  ∀ s : State, s.TreeInv → s.isBusy = true →
    ∃ (k : Nat) (t : State), k ≤ s.events.length + 1 ∧ Host.Core.run Sys2Proof.core k s = .next t ∧
      t.phase = .idle

/-! ### What commands leave alone, and errors -/

/-- 20_memory.md R92, 10_state.md R64: what no command writes, which commands write DMEM, NODE, LUT and BITCOUNT,
and that a command that fails a pre-check writes no byte. -/
def Obligations.CommandsWriteOnlyTheirOutputs : Prop :=
  ∀ (i : Instr) (s t : State), exec i s = .next t →
    s.sameInputs t ∧ s.sameMemoryBut t s.dstAddr.toNat s.dstCap.toNat ∧
    (i = .build ∨ i = .genlut → s.sameMemory t) ∧
    (t.errCode ≠ .none → t.errCode.isExecution = false → s.sameMemory t) ∧
    (i ≠ .build → i ≠ .deserialize → s.sameTree t) ∧
    (i ≠ .genlut → t.lut = s.lut) ∧
    (i ≠ .genlut → i ≠ .build → i ≠ .deserialize → t.lutValid = s.lutValid) ∧
    (i ≠ .encode → i ≠ .deserialize → t.bitCount = s.bitCount)

/-- 60_exceptions.md R266, first class: a command that reports a pre-check error changes the completion state alone. -/
def Obligations.PreCheckErrorsChangeNothingElse : Prop :=
  ∀ (i : Instr) (s t : State), exec i s = .next t → t.errCode ≠ .none →
    t.errCode.isExecution = false →
    t = { s with phase := .idle, done := true, errCode := t.errCode, errSub := t.errSub,
                 errInfo := t.errInfo, outLen := 0#32 }

/-- 60_exceptions.md R266, second class, and 43_container.md R253: an execution error leaves the destination range free,
all other DMEM, BITCOUNT, and (but for DESERIALIZE, which loses the tree) every table and flag as they were.
That each lost byte is its own free value of one draw, and each NODE entry one of another, is the model's (logs 5 and 17);
the statement holds for every such value. -/
def Obligations.ExecutionErrorsLoseTheDestination : Prop :=
  ∀ (i : Instr) (s t : State), exec i s = .next t → t.errCode.isExecution = true →
    t.outLen = 0#32 ∧ t.bitCount = s.bitCount ∧
    s.sameMemoryBut t s.dstAddr.toNat s.dstCap.toNat ∧
    (∃ d : Nat, s.draws ≤ d ∧ ∀ j : Nat, j < s.dstCap.toNat →
      t.byteAt (s.dstAddr.toNat + j) = Config.freeByte d j) ∧
    (i ≠ .deserialize → s.sameTree t ∧ s.sameCodes t) ∧
    (i = .deserialize → t.treeValid = false ∧ t.lutValid = false ∧ t.emptyTree ∧ t.lut = s.lut ∧
      ∀ n : Nat, n < 511 → t.node[n]? = some (Config.freeNode s.draws n))

/-- 60_exceptions.md R267, steps 2 to 5: the prerequisite flag, then RANGE (source, then destination; 20_memory.md R90),
then OVERLAP (R91), then LENGTH for DECODE and SERIALIZE (42_decoder.md R211, 43_container.md R233). -/
def Obligations.PreChecksComeInOrder : Prop :=
  (∀ s : State, s.treeValid = false →
    exec .genlut s = .next (s.preCheckFailed ⟨.noTree, 0#8, 0#32⟩) ∧
    exec .decode s = .next (s.preCheckFailed ⟨.noTree, 0#8, 0#32⟩) ∧
    exec .serialize s = .next (s.preCheckFailed ⟨.noTree, 0#8, 0#32⟩)) ∧
  (∀ s : State, s.lutValid = false → exec .encode s = .next (s.preCheckFailed ⟨.noLut, 0#8, 0#32⟩)) ∧
  (∀ (i : Instr) (s : State), usesRanges i = true → s.prerequisite i = true →
    (s.cfg.dmemBytes < s.srcAddr.toNat + s.srcLen.toNat →
      exec i s = .next (s.preCheckFailed ⟨.range, 0#8, 0#32⟩)) ∧
    (s.srcAddr.toNat + s.srcLen.toNat ≤ s.cfg.dmemBytes →
      s.cfg.dmemBytes < s.dstAddr.toNat + s.dstCap.toNat →
      exec i s = .next (s.preCheckFailed ⟨.range, 0#8, 1#32⟩)) ∧
    (s.srcAddr.toNat + s.srcLen.toNat ≤ s.cfg.dmemBytes →
      s.dstAddr.toNat + s.dstCap.toNat ≤ s.cfg.dmemBytes →
      0 < s.srcLen.toNat → 0 < s.dstCap.toNat →
      s.srcAddr.toNat < s.dstAddr.toNat + s.dstCap.toNat →
      s.dstAddr.toNat < s.srcAddr.toNat + s.srcLen.toNat →
      exec i s = .next (s.preCheckFailed ⟨.overlap, 0#8, 0#32⟩)) ∧
    (i = .decode ∨ i = .serialize → s.rangesFit → s.srcLen.toNat < (s.bitCount.toNat + 7) / 8 →
      exec i s = .next (s.preCheckFailed
        ⟨.length, 0#8, BitVec.ofNat 32 ((s.bitCount.toNat + 7) / 8)⟩)))

/-! ### BUILD -/

/-- 40_tree_builder.md R164, R160: BUILD succeeds from every state, sets TREE_VALID, clears LUT_VALID, and
NODE[k] is the leaf of the k-th present symbol; DMEM, LUT, BITCOUNT and the inputs stay. -/
def Obligations.BuildAllocatesLeaves : Prop :=
  ∀ s : State, ∃ t : State, exec .build s = .next t ∧ t.succeeded 0 ∧ t.treeValid = true ∧
    t.lutValid = false ∧ t.lut = s.lut ∧ t.bitCount = s.bitCount ∧ s.sameInputs t ∧ s.sameMemory t ∧
    t.leafCount.toNat = (presentIn s.freq).length ∧
    ∀ (k : Nat) (sym : Symbol), (presentIn s.freq)[k]? = some sym →
      t.node[k]? = some (.leaf sym ((freqAt s.freq sym).setWidth 40))

/-- 40_tree_builder.md R165-R167: NODE_COUNT and ROOT for L leaves, and the entries BUILD does not write. -/
def Obligations.BuildCountsNodes : Prop :=
  ∀ s : State, ∃ t : State, exec .build s = .next t ∧
    ((presentIn s.freq).length = 0 → t.nodeCount = 0#9 ∧ t.root = 0#9 ∧ t.leafCount = 0#9) ∧
    (0 < (presentIn s.freq).length →
      t.nodeCount.toNat = 2 * (presentIn s.freq).length - 1 ∧
      t.root.toNat = 2 * (presentIn s.freq).length - 2) ∧
    ∀ n : Nat, t.nodeCount.toNat ≤ n → t.node[n]? = s.node[n]?

/-- 40_tree_builder.md R161-R163: the k-th internal node merges the two members of the priority set with the smallest keys,
its right child the smaller key a, its left child b, its weight their exact sum. -/
def Obligations.BuildMergesSmallestKeys : Prop :=
  ∀ s : State, ∃ t : State, exec .build s = .next t ∧
    ∀ k : Nat, k + 1 < (presentIn s.freq).length →
      ∃ (a b : NodeIdx) (w : Weight),
        t.node[(presentIn s.freq).length + k]? = some (.internal w b a) ∧
        w.toNat = weightAt t.node a.toNat + weightAt t.node b.toNat ∧
        inPrioritySet t.node (presentIn s.freq).length ((presentIn s.freq).length + k) a.toNat ∧
        inPrioritySet t.node (presentIn s.freq).length ((presentIn s.freq).length + k) b.toNat ∧
        keyBefore t.node a.toNat b.toNat ∧
        ∀ j : Nat,
          inPrioritySet t.node (presentIn s.freq).length ((presentIn s.freq).length + k) j →
          j ≠ a.toNat → j ≠ b.toNat → keyBefore t.node b.toNat j

/-- 40_tree_builder.md R168: the root's weight is the sum of FREQ, and the merge weights never decrease. -/
def Obligations.BuildWeights : Prop :=
  ∀ s : State, ∃ t : State, exec .build s = .next t ∧
    (0 < (presentIn s.freq).length →
      weightAt t.node t.root.toNat = (s.freq.toList.map fun n => n.toNat).sum) ∧
    ∀ k : Nat, k + 2 < (presentIn s.freq).length →
      weightAt t.node ((presentIn s.freq).length + k) ≤
        weightAt t.node ((presentIn s.freq).length + k + 1)

/-- 40_tree_builder.md R168, determinism: the tree is a function of FREQ alone. -/
def Obligations.BuildDependsOnFreqAlone : Prop :=
  ∀ s₁ s₂ t₁ t₂ : State, s₁.freq = s₂.freq → exec .build s₁ = .next t₁ → exec .build s₂ = .next t₂ →
    t₁.nodeCount = t₂.nodeCount ∧ t₁.root = t₂.root ∧ t₁.leafCount = t₂.leafCount ∧
    ∀ n : Nat, n < t₁.nodeCount.toNat → t₁.node[n]? = t₂.node[n]?

/-! ### GENLUT -/

/-- 41_encoder.md R180-R182: with a valid tree GENLUT succeeds and gives every symbol the code of its path,
"0" for the lone leaf of a single-leaf tree, and no code to a symbol that is not in the tree; all else stays. -/
def Obligations.GenlutWritesPathCodes : Prop :=
  ∀ s : State, s.treeValid = true →
    (∀ T : Tree, s.holdsTree T → ∃ t : State, exec .genlut s = .next t ∧ t.succeeded 0 ∧
      t.lutValid = true ∧ (∀ sym : Symbol, codeAt t.lut sym = T.codeOf sym) ∧
      s.sameInputs t ∧ s.sameTree t ∧ s.sameMemory t ∧ t.bitCount = s.bitCount) ∧
    (s.emptyTree → ∃ t : State, exec .genlut s = .next t ∧ t.succeeded 0 ∧ t.lutValid = true ∧
      (∀ sym : Symbol, codeAt t.lut sym = []) ∧
      s.sameInputs t ∧ s.sameTree t ∧ s.sameMemory t ∧ t.bitCount = s.bitCount)

/-- 41_encoder.md R184 (a), (b), (c): in a table GENLUT writes exactly the tree's symbols have a code, and for two or more leaves
no code is a prefix of another, so the codes are distinct. -/
def Obligations.GenlutCodesArePrefixFree : Prop :=
  ∀ (s t : State) (T : Tree), s.treeValid = true → s.holdsTree T → exec .genlut s = .next t →
    (∀ sym : Symbol, codeAt t.lut sym ≠ [] ↔ sym ∈ T.symbols) ∧
    (2 ≤ s.leafCount.toNat → ∀ a b : Symbol, a ∈ T.symbols → b ∈ T.symbols → a ≠ b →
      ¬ codeAt t.lut a <+: codeAt t.lut b)

/-- 41_encoder.md R184 (d): for two or more leaves the sum of 2^(-len) over the coded symbols is 1,
written over the common denominator 2^255. -/
def Obligations.GenlutCodesAreComplete : Prop :=
  ∀ (s t : State) (T : Tree), s.treeValid = true → s.holdsTree T → 2 ≤ s.leafCount.toNat →
    exec .genlut s = .next t →
    (T.symbols.map fun sym => 2 ^ (255 - (codeAt t.lut sym).length)).sum = 2 ^ 255

/-! ### ENCODE -/

/-- 41_encoder.md R185, R187, R189, R190: ENCODE concatenates the codes of the source bytes, packs them MSB-first with zero
padding into exactly ceil8 bytes at DST_ADDR, and sets BITCOUNT and OUT_LEN; all else stays. -/
def Obligations.EncodePacksCodes : Prop :=
  ∀ s : State, s.lutValid = true → s.rangesFit → (∀ b ∈ s.srcBytes, codeAt s.lut b ≠ []) →
    ceil8 (s.srcBytes.flatMap (codeAt s.lut)).length ≤ s.dstCap.toNat →
    ∃ t : State, exec .encode s = .next t ∧
      t.succeeded (ceil8 (s.srcBytes.flatMap (codeAt s.lut)).length) ∧
      t.bitCount = BitVec.ofNat 32 (s.srcBytes.flatMap (codeAt s.lut)).length ∧
      (∀ j : Nat, j < 8 * ceil8 (s.srcBytes.flatMap (codeAt s.lut)).length →
        (t.byteAt (s.dstAddr.toNat + j / 8)).getLsbD (7 - j % 8) =
          (s.srcBytes.flatMap (codeAt s.lut)).getD j false) ∧
      s.sameMemoryBut t s.dstAddr.toNat (ceil8 (s.srcBytes.flatMap (codeAt s.lut)).length) ∧
      s.sameInputs t ∧ s.sameTree t ∧ s.sameCodes t

/-- 41_encoder.md R186: the first source byte with no code is reported as UNKNOWN_SYMBOL, SUB = the byte, ERRINFO = its offset. -/
def Obligations.EncodeReportsFirstUnknownSymbol : Prop :=
  ∀ (s : State) (i : Nat) (b : Byte), s.lutValid = true → s.rangesFit → s.srcBytes[i]? = some b →
    codeAt s.lut b = [] →
    (∀ (j : Nat) (c : Byte), j < i → s.srcBytes[j]? = some c → codeAt s.lut c ≠ []) →
    ∃ t : State, exec .encode s = .next t ∧ t.failedWith ⟨.unknownSymbol, b, BitVec.ofNat 32 i⟩

/-- 41_encoder.md R188: the packed length is compared with DST_CAP only when every source byte has a code;
CAPACITY reports the bytes required and writes no BITCOUNT. -/
def Obligations.EncodeChecksCapacityLast : Prop :=
  ∀ s : State, s.lutValid = true → s.rangesFit →
    ((∀ b ∈ s.srcBytes, codeAt s.lut b ≠ []) →
      s.dstCap.toNat < ceil8 (s.srcBytes.flatMap (codeAt s.lut)).length →
      ∃ t : State, exec .encode s = .next t ∧ t.bitCount = s.bitCount ∧
        t.failedWith ⟨.capacity, 0#8,
          BitVec.ofNat 32 (ceil8 (s.srcBytes.flatMap (codeAt s.lut)).length)⟩) ∧
    ((∃ b ∈ s.srcBytes, codeAt s.lut b = []) →
      ∃ t : State, exec .encode s = .next t ∧ t.bitCount = s.bitCount ∧ t.errCode = .unknownSymbol)

/-- 41_encoder.md R190, 00_scope.md R14: the bit count is at most 255 x SRC_LEN, below 2^24, so BITCOUNT holds it exactly. -/
def Obligations.EncodeBitCountFits : Prop :=
  ∀ s t : State, s.MemInv → s.CodesFit → exec .encode s = .next t → t.errCode = .none →
    t.bitCount.toNat = (s.srcBytes.flatMap (codeAt s.lut)).length ∧
    t.bitCount.toNat ≤ 255 * s.srcLen.toNat ∧ t.bitCount.toNat < 2 ^ 24 ∧
    t.outLen.toNat = (t.bitCount.toNat + 7) / 8

/-! ### DECODE -/

/-- 42_decoder.md R214, R216, R217: with an Internal root, a source that is the codes of some symbols one after another decodes
to those symbols, written one byte each from DST_ADDR on, all else staying; when they are more than DST_CAP,
CAPACITY reports how many they are. -/
def Obligations.DecodeFollowsCodes : Prop :=
  ∀ (s : State) (T : Tree) (out : List Symbol), s.treeValid = true → s.holdsTree T →
    2 ≤ s.leafCount.toNat → s.rangesFit → ceil8 s.bitCount.toNat ≤ s.srcLen.toNat →
    (∀ sym ∈ out, sym ∈ T.symbols) → s.srcBits s.bitCount.toNat = out.flatMap T.codeOf →
    (out.length ≤ s.dstCap.toNat →
      ∃ t : State, exec .decode s = .next t ∧ t.succeeded out.length ∧
        t.bytesAt s.dstAddr.toNat out.length = out ∧
        s.sameMemoryBut t s.dstAddr.toNat out.length ∧ s.sameInputs t ∧ s.sameTree t ∧
        s.sameCodes t ∧ t.bitCount = s.bitCount) ∧
    (s.dstCap.toNat < out.length →
      ∃ t : State, exec .decode s = .next t ∧
        t.failedWith ⟨.capacity, 0#8, BitVec.ofNat 32 out.length⟩)

/-- 42_decoder.md R213: with a single-leaf tree DECODE emits the leaf's symbol BITCOUNT times, whatever the bits are;
R216: when DST_CAP is smaller, CAPACITY reports how many. -/
def Obligations.DecodeRepeatsLoneLeaf : Prop :=
  ∀ (s : State) (sym : Symbol) (w : Weight), s.treeValid = true → s.nodeCount = 1#9 →
    nodeAt s.node s.root = some (.leaf sym w) → s.rangesFit →
    ceil8 s.bitCount.toNat ≤ s.srcLen.toNat →
    (s.bitCount.toNat ≤ s.dstCap.toNat →
      ∃ t : State, exec .decode s = .next t ∧ t.succeeded s.bitCount.toNat ∧
        (∀ k : Nat, k < s.bitCount.toNat → t.byteAt (s.dstAddr.toNat + k) = sym) ∧
        s.sameMemoryBut t s.dstAddr.toNat s.bitCount.toNat ∧ s.sameInputs t ∧ s.sameTree t ∧
        s.sameCodes t ∧ t.bitCount = s.bitCount) ∧
    (s.dstCap.toNat < s.bitCount.toNat →
      ∃ t : State, exec .decode s = .next t ∧ t.failedWith ⟨.capacity, 0#8, s.bitCount⟩)

/-- 42_decoder.md R212: with NODE_COUNT = 0, DECODE of BITCOUNT = 0 succeeds with no output,
and of BITCOUNT > 0 fails with CORRUPT_TREE. -/
def Obligations.DecodeOfEmptyTree : Prop :=
  ∀ s : State, s.treeValid = true → s.nodeCount = 0#9 → s.rangesFit →
    ceil8 s.bitCount.toNat ≤ s.srcLen.toNat →
    (s.bitCount = 0#32 → ∃ t : State, exec .decode s = .next t ∧ t.succeeded 0 ∧ s.sameMemory t) ∧
    (s.bitCount ≠ 0#32 →
      ∃ t : State, exec .decode s = .next t ∧ t.failedWith ⟨.corruptTree, 0#8, 0#32⟩)

/-- 42_decoder.md R215: when the bits end inside a codeword DECODE fails with TRAVERSAL,
ERRINFO = the index of the first bit of that codeword; R216: whatever DST_CAP is. -/
def Obligations.DecodeReportsUnfinishedCodeword : Prop :=
  ∀ (s : State) (T : Tree) (out : List Symbol) (sym : Symbol) (p : Code), s.treeValid = true →
    s.holdsTree T → 2 ≤ s.leafCount.toNat → s.rangesFit →
    ceil8 s.bitCount.toNat ≤ s.srcLen.toNat → (∀ a ∈ out, a ∈ T.symbols) → sym ∈ T.symbols →
    p <+: T.codeOf sym → p ≠ [] → p ≠ T.codeOf sym →
    s.srcBits s.bitCount.toNat = out.flatMap T.codeOf ++ p →
    ∃ t : State, exec .decode s = .next t ∧
      t.failedWith ⟨.traversal, 0#8, BitVec.ofNat 32 (out.flatMap T.codeOf).length⟩

/-- 42_decoder.md R211, 30_encoding.md R131: DECODE's report and output depend on bits 0 .. BITCOUNT - 1 of the source alone:
DMEM may differ in every other bit, the padding among them. -/
def Obligations.DecodeReadsOnlyCountedBits : Prop :=
  ∀ (s t : State) (m : List Host.Cell),
    (∀ j : Nat, j < s.bitCount.toNat → ({ s with dmem := m } : State).srcBit j = s.srcBit j) →
    exec .decode s = .next t →
    ∃ t' : State, exec .decode { s with dmem := m } = .next t' ∧ t'.errCode = t.errCode ∧
      t'.errSub = t.errSub ∧ t'.errInfo = t.errInfo ∧ t'.outLen = t.outLen ∧
      (t.errCode = .none → ∀ k : Nat, k < t.outLen.toNat →
        t'.byteAt (s.dstAddr.toNat + k) = t.byteAt (s.dstAddr.toNat + k))

/-- 42_decoder.md R218: DECODE of what ENCODE wrote, with the tree the LUT was generated from, gives ENCODE's source bytes back,
the empty and the single-symbol case included. -/
def Obligations.DecodeUndoesEncode : Prop :=
  ∀ s t u : State, s.MemInv → s.TreeInv → s.LutInv → exec .encode s = .next t → t.errCode = .none →
    t.sameTree u → t.sameMemory u → u.cfg = t.cfg → u.bitCount = t.bitCount →
    u.srcAddr = t.dstAddr → t.outLen.toNat ≤ u.srcLen.toNat → u.rangesFit →
    s.srcLen.toNat ≤ u.dstCap.toNat →
    ∃ v : State, exec .decode u = .next v ∧ v.succeeded s.srcLen.toNat ∧
      ∀ k : Nat, k < s.srcLen.toNat →
        v.byteAt (u.dstAddr.toNat + k) = s.byteAt (s.srcAddr.toNat + k)

/-! ### Varints -/

/-- 30_encoding.md R143: every value a 32-bit register holds is read back from its varint, wherever it stands. -/
def Obligations.VarintReadsBack : Prop :=
  ∀ (v : Nat) (before after : List Byte), v < 2 ^ 32 →
    readVarint (before ++ varint v ++ after) before.length = .ok (v, before.length + varintLen v)

/-- 30_encoding.md R142: what is accepted as a varint has a value below 2^32 and is that value's minimal form. -/
def Obligations.VarintAcceptsMinimalForms : Prop :=
  ∀ (bytes : List Byte) (pos v next : Nat), readVarint bytes pos = .ok (v, next) →
    v < 2 ^ 32 ∧ next = pos + varintLen v ∧ next ≤ bytes.length ∧
    bytes.drop pos = varint v ++ bytes.drop next

/-! ### SERIALIZE -/

/-- 43_container.md R230-R232, 30_encoding.md R140: SERIALIZE writes the artifact of the tree, BITCOUNT and the first
ceil8(BITCOUNT) source bytes at DST_ADDR; all else stays. -/
def Obligations.SerializeWritesArtifact : Prop :=
  ∀ (s : State) (sh : Option Shape), s.treeValid = true → s.holdsShape sh → s.rangesFit →
    ceil8 s.bitCount.toNat ≤ s.srcLen.toNat →
    (artifactOf sh s.bitCount.toNat
      (s.bytesAt s.srcAddr.toNat (ceil8 s.bitCount.toNat))).length ≤ s.dstCap.toNat →
    ∃ t : State, exec .serialize s = .next t ∧
      t.succeeded (artifactOf sh s.bitCount.toNat
        (s.bytesAt s.srcAddr.toNat (ceil8 s.bitCount.toNat))).length ∧
      t.bytesAt s.dstAddr.toNat (artifactOf sh s.bitCount.toNat
        (s.bytesAt s.srcAddr.toNat (ceil8 s.bitCount.toNat))).length =
          artifactOf sh s.bitCount.toNat
            (s.bytesAt s.srcAddr.toNat (ceil8 s.bitCount.toNat)) ∧
      s.sameMemoryBut t s.dstAddr.toNat (artifactOf sh s.bitCount.toNat
        (s.bytesAt s.srcAddr.toNat (ceil8 s.bitCount.toNat))).length ∧
      s.sameInputs t ∧ s.sameTree t ∧ s.sameCodes t ∧ t.bitCount = s.bitCount

/-- 30_encoding.md R150: the length of the artifact, which SERIALIZE reports in OUT_LEN when it fits
and as the bytes required when it does not (43_container.md R234). -/
def Obligations.SerializeReportsArtifactLength : Prop :=
  ∀ (s : State) (n : Nat), s.TreeInv → s.treeValid = true → s.rangesFit →
    ceil8 s.bitCount.toNat ≤ s.srcLen.toNat →
    n = 1 + varintLen s.nodeCount.toNat + (s.nodeCount.toNat - s.leafCount.toNat) +
      2 * s.leafCount.toNat + varintLen s.bitCount.toNat + ceil8 s.bitCount.toNat →
    (n ≤ s.dstCap.toNat → ∃ t : State, exec .serialize s = .next t ∧ t.succeeded n) ∧
    (s.dstCap.toNat < n → ∃ t : State, exec .serialize s = .next t ∧
      t.failedWith ⟨.capacity, 0#8, BitVec.ofNat 32 n⟩)

/-! ### DESERIALIZE -/

/-- 43_container.md R252, R247: DESERIALIZE of an artifact loads its tree, record k into NODE[k] with weight 0, its bit count
and its payload; the other NODE entries, all other DMEM and the inputs stay. -/
def Obligations.DeserializeLoadsArtifact : Prop :=
  ∀ (s : State) (sh : Option Shape) (b : Nat) (payload : List Byte), s.rangesFit → b < 2 ^ 32 →
    Shape.distinct sh → payload.length = ceil8 b → s.srcBytes = artifactOf sh b payload →
    ceil8 b ≤ s.dstCap.toNat →
    ∃ t : State, exec .deserialize s = .next t ∧ t.succeeded (ceil8 b) ∧ t.treeValid = true ∧
      t.lutValid = false ∧ t.lut = s.lut ∧ t.bitCount = BitVec.ofNat 32 b ∧ t.root = 0#9 ∧
      t.nodeCount.toNat = Shape.sizeOf sh ∧ t.holdsShape sh ∧
      (∀ T : Tree, t.holdsTree T → T.indices = List.range (Shape.sizeOf sh)) ∧
      (∀ n : Nat, n < Shape.sizeOf sh → weightAt t.node n = 0) ∧
      (∀ n : Nat, Shape.sizeOf sh ≤ n → t.node[n]? = s.node[n]?) ∧
      t.bytesAt s.dstAddr.toNat (ceil8 b) = payload ∧
      s.sameMemoryBut t s.dstAddr.toNat (ceil8 b) ∧ s.sameInputs t

/-- 30_encoding.md R151, 43_container.md R240-R250: DESERIALIZE succeeds only on the one byte string that is the artifact of the
tree, bit count and payload it loads. -/
def Obligations.DeserializeAcceptsOnlyArtifacts : Prop :=
  ∀ s t : State, exec .deserialize s = .next t → t.errCode = .none →
    ∃ (sh : Option Shape) (payload : List Byte), t.holdsShape sh ∧ Shape.distinct sh ∧
      payload.length = ceil8 t.bitCount.toNat ∧
      payload = t.bytesAt s.dstAddr.toNat (ceil8 t.bitCount.toNat) ∧
      s.srcBytes = artifactOf sh t.bitCount.toNat payload

/-- 43_container.md R241: an empty artifact is TRUNCATED at offset 0, and any other first byte than 0x01 is BAD_VERSION at offset 0.
R242: when NODECOUNT, or BITCOUNT after the records of a tree, is no varint that 30_encoding.md R142 accepts, it is TRUNCATED at a
missing byte or BAD_VARINT at the byte at fault. -/
def Obligations.DeserializeChecksVersion : Prop :=
  ∀ s : State, s.rangesFit →
    (s.srcLen = 0#32 → ∃ t : State, exec .deserialize s = .next t ∧
      t.failedWith ⟨.corruptArtifact, 0x01#8, 0#32⟩) ∧
    (s.srcLen ≠ 0#32 → s.byteAt s.srcAddr.toNat ≠ 0x01#8 →
      ∃ t : State, exec .deserialize s = .next t ∧
        t.failedWith ⟨.corruptArtifact, 0x02#8, 0#32⟩) ∧
    (∀ (i : Nat) (sub : Byte), s.srcLen ≠ 0#32 → s.byteAt s.srcAddr.toNat = 0x01#8 →
      varintFails s.srcBytes 1 i sub →
      ∃ t : State, exec .deserialize s = .next t ∧
        t.failedWith ⟨.corruptArtifact, sub, BitVec.ofNat 32 (1 + i)⟩) ∧
    (∀ (sh : Option Shape) (rest : List Byte) (start i : Nat) (sub : Byte), Shape.distinct sh →
      s.srcBytes = [0x01#8] ++ varint (Shape.sizeOf sh) ++ Shape.recordsOf sh ++ rest →
      start + rest.length = s.srcLen.toNat → varintFails s.srcBytes start i sub →
      ∃ t : State, exec .deserialize s = .next t ∧
        t.failedWith ⟨.corruptArtifact, sub, BitVec.ofNat 32 (start + i)⟩)

/-- 43_container.md R249-R251: an artifact whose payload is too short, too long, or longer than DST_CAP;
`at` is the offset of the first payload byte. -/
def Obligations.DeserializeChecksPayloadLength : Prop :=
  ∀ (s : State) (sh : Option Shape) (b start : Nat) (payload : List Byte), s.rangesFit →
    b < 2 ^ 32 → Shape.distinct sh → s.srcBytes = artifactOf sh b payload →
    start + payload.length = s.srcLen.toNat →
    (payload.length < ceil8 b → ∃ t : State, exec .deserialize s = .next t ∧
      t.failedWith ⟨.corruptArtifact, 0x08#8, BitVec.ofNat 32 start⟩) ∧
    (ceil8 b < payload.length → ∃ t : State, exec .deserialize s = .next t ∧
      t.failedWith ⟨.corruptArtifact, 0x09#8, BitVec.ofNat 32 (start + ceil8 b)⟩) ∧
    (payload.length = ceil8 b → s.dstCap.toNat < ceil8 b →
      ∃ t : State, exec .deserialize s = .next t ∧ t.treeValid = false ∧
        t.failedWith ⟨.capacity, 0#8, BitVec.ofNat 32 (ceil8 b)⟩)

/-- 43_container.md R243: a node count above 511 is BAD_NODE_COUNT, ERRINFO = 1, before any record is read.
R244: a count that is not that of the tree the records form is NODE_MISMATCH: where the next record would start when the tree
ends first, and just after the last record when the count ends first (95_test_vectors.md V4).
R240, R245, R246: where a record is due, no byte is TRUNCATED and a tag other than 0x00 and 0x01 is BAD_TAG, both there;
a Leaf tag with no symbol after it is TRUNCATED, and one with the symbol of an earlier Leaf record DUP_SYMBOL,
both at the symbol's offset. -/
def Obligations.DeserializeChecksNodeCount : Prop :=
  ∀ (s : State) (n : Nat) (rest : List Byte), s.rangesFit → n < 2 ^ 32 →
    s.srcBytes = [0x01#8] ++ varint n ++ rest →
    (511 < n → ∃ t : State, exec .deserialize s = .next t ∧
      t.failedWith ⟨.corruptArtifact, 0x04#8, 1#32⟩) ∧
    (∀ (sh : Shape) (more : List Byte), n ≤ 511 → sh.symbols.Nodup → sh.size < n →
      rest = sh.records ++ more → ∃ t : State, exec .deserialize s = .next t ∧
        t.failedWith ⟨.corruptArtifact, 0x07#8,
          BitVec.ofNat 32 (1 + varintLen n + sh.records.length)⟩) ∧
    (∀ (sh : Shape) (more : List Byte), n ≤ 511 → sh.distinctUpTo n → 0 < n → n < sh.size →
      rest = sh.prefixBytes n ++ more → ∃ t : State, exec .deserialize s = .next t ∧
        t.failedWith ⟨.corruptArtifact, 0x07#8,
          BitVec.ofNat 32 (1 + varintLen n + (sh.prefixBytes n).length)⟩) ∧
    (∀ (sh : Shape) (k pos : Nat) (more : List Byte), n ≤ 511 → k < n → k < sh.size →
      sh.distinctUpTo k → rest = sh.prefixBytes k ++ more →
      pos = 1 + varintLen n + (sh.prefixBytes k).length →
      (more = [] → ∃ t : State, exec .deserialize s = .next t ∧
        t.failedWith ⟨.corruptArtifact, 0x01#8, BitVec.ofNat 32 pos⟩) ∧
      (∀ (tag : Byte) (after : List Byte), more = tag :: after → tag ≠ 0x00#8 → tag ≠ 0x01#8 →
        ∃ t : State, exec .deserialize s = .next t ∧
          t.failedWith ⟨.corruptArtifact, 0x05#8, BitVec.ofNat 32 pos⟩) ∧
      (more = [0x01#8] → ∃ t : State, exec .deserialize s = .next t ∧
        t.failedWith ⟨.corruptArtifact, 0x01#8, BitVec.ofNat 32 (pos + 1)⟩) ∧
      (∀ (sym : Symbol) (after : List Byte), more = 0x01#8 :: sym :: after →
        [0x01#8, sym] ∈ sh.recordList.take k →
        ∃ t : State, exec .deserialize s = .next t ∧
          t.failedWith ⟨.corruptArtifact, 0x06#8, BitVec.ofNat 32 (pos + 1)⟩))

/-- 43_container.md R231, 30_encoding.md R151 and 70_reset_and_hazards.md R307: DESERIALIZE of what SERIALIZE wrote loads the same tree shape,
bit count and payload. -/
def Obligations.DeserializeUndoesSerialize : Prop :=
  ∀ (s t u : State) (sh : Option Shape), s.treeValid = true → s.holdsShape sh →
    exec .serialize s = .next t → t.errCode = .none → t.sameMemory u → u.cfg = t.cfg →
    u.srcAddr = t.dstAddr → u.srcLen = t.outLen → u.rangesFit →
    ceil8 s.bitCount.toNat ≤ u.dstCap.toNat →
    ∃ v : State, exec .deserialize u = .next v ∧ v.succeeded (ceil8 s.bitCount.toNat) ∧
      v.treeValid = true ∧ v.holdsShape sh ∧ v.bitCount = s.bitCount ∧
      v.bytesAt u.dstAddr.toNat (ceil8 s.bitCount.toNat) =
        s.bytesAt s.srcAddr.toNat (ceil8 s.bitCount.toNat)

/-! ### The host port -/

/-- 60_exceptions.md R261: a host write of `w` to CMD while idle issues the command, and no other state changes. -/
def Obligations.CmdWriteIssues : Prop :=
  ∀ (s : State) (w : Word), s.phase = .idle →
    s.hostWrite .four 0x00C#17 w =
      { s with phase := .busy w, done := false, errCode := .none, errSub := 0#8, errInfo := 0#32 }

/-- 10_state.md R35: a host write to CTRL, idle or busy: SRST wins; else IRQ_EN is written, and CLR_OVERRUN and ACK act. -/
def Obligations.CtrlWriteActs : Prop :=
  ∀ (s : State) (w : Word),
    (w.getLsbD 0 = true → s.hostWrite .four 0x008#17 w = s.softReset) ∧
    (w.getLsbD 0 = false → s.hostWrite .four 0x008#17 w =
      { s with irqEn := w.getLsbD 3, overrun := s.overrun && !w.getLsbD 1,
               done := s.done && !w.getLsbD 2 }) ∧
    (s.hostRead .four 0x008#17 = (if s.irqEn then 0x00000008#32 else 0#32, s))

/-- 20_memory.md R93: while busy, a host write to any offset but 0x008 changes nothing and sets OVERRUN, so a CMD write issues
nothing; a write to CTRL is performed as 10_state.md R35 says. -/
def Obligations.BusyWritesAreDropped : Prop :=
  ∀ (s : State) (n : Size) (off : Offset) (v : Word), s.isBusy = true →
    (off ≠ 0x008#17 → s.hostWrite n off v = { s with overrun := true }) ∧
    s.hostWrite .four 0x008#17 v = (if v.getLsbD 0 then s.softReset
      else { s with irqEn := v.getLsbD 3, overrun := s.overrun && !v.getLsbD 1,
                    done := s.done && !v.getLsbD 2 })

/-- 20_memory.md R84, R85: below 0x08000 a sub-word or misaligned transaction, and any transaction at a reserved offset or the slot
past NODE[510], reads 0 and writes nothing (while busy it sets OVERRUN).
That it reads 0 while busy too is the model's reading (log 10), as is OVERRUN for such a write at CTRL (log 11). -/
def Obligations.AccessesWithoutATarget : Prop :=
  ∀ (s : State) (n : Size) (off : Offset) (v : Word),
    (off.toNat < 0x8000 ∧ (n ≠ .four ∨ off.toNat % 4 ≠ 0)) ∨
      (0x40 ≤ off.toNat ∧ off.toNat < 0x400) ∨ (0x800 ≤ off.toNat ∧ off.toNat < 0x1000) ∨
      (0x2FF0 ≤ off.toNat ∧ off.toNat < 0x4000) ∨ (0x8000 ≤ off.toNat ∧ off.toNat < 0x10000) →
    s.hostRead n off = (0#32, s) ∧
    s.hostWrite n off v = if s.isBusy then { s with overrun := true } else s

/-- 10_state.md R33-R53, R62: what a read of each register and of FREQ gives: the exact value always for those R62 names,
and for the outputs while idle; while busy an output reads as a fresh free value (logs 5 and 9: it holds for every one).
60_exceptions.md R265: the number of each error. -/
def Obligations.RegisterReads : Prop :=
  ∀ s : State,
    s.hostRead .four 0x000#17 = (0x48554646#32, s) ∧ s.hostRead .four 0x004#17 = (0x00000001#32, s) ∧
    s.hostRead .four 0x00C#17 = (0#32, s) ∧
    s.hostRead .four 0x014#17 =
      (BitVec.ofNat 32
        ((match s.errCode with
          | .none => 0x00
          | .illegalCmd => 0x01
          | .noTree => 0x02
          | .noLut => 0x03
          | .range => 0x04
          | .overlap => 0x05
          | .length => 0x06
          | .capacity => 0x07
          | .unknownSymbol => 0x10
          | .corruptTree => 0x11
          | .traversal => 0x12
          | .corruptArtifact => 0x13) + 256 * s.errSub.toNat), s) ∧
    s.hostRead .four 0x018#17 = (s.errInfo, s) ∧ s.hostRead .four 0x01C#17 = (s.srcAddr, s) ∧
    s.hostRead .four 0x020#17 = (s.srcLen, s) ∧ s.hostRead .four 0x024#17 = (s.dstAddr, s) ∧
    s.hostRead .four 0x028#17 = (s.dstCap, s) ∧
    (∀ sym : Symbol,
      s.hostRead .four (BitVec.ofNat 17 (0x400 + 4 * sym.toNat)) = (freqAt s.freq sym, s)) ∧
    (s.isBusy = false →
      s.hostRead .four 0x02C#17 = (s.outLen, s) ∧ s.hostRead .four 0x030#17 = (s.bitCount, s) ∧
      s.hostRead .four 0x034#17 = (BitVec.ofNat 32 s.nodeCount.toNat, s) ∧
      s.hostRead .four 0x038#17 = (BitVec.ofNat 32 s.root.toNat, s) ∧
      s.hostRead .four 0x03C#17 = (BitVec.ofNat 32 s.leafCount.toNat, s)) ∧
    (s.isBusy = true → ∀ off ∈ [0x02C#17, 0x030#17, 0x034#17, 0x038#17, 0x03C#17],
      s.hostRead .four off = (Config.freeWord s.draws, { s with draws := s.draws + 1 }))

/-- 10_state.md R37-R43, R62: the bits of a read of STATUS: BUSY, DONE, ERR and OVERRUN always exact, TREE_VALID and LUT_VALID exact
while idle, bits 31:6 zero. -/
def Obligations.StatusReads : Prop :=
  ∀ s : State,
    ((s.hostRead .four 0x010#17).1.getLsbD 0 = true ↔ ∃ w, s.phase = .busy w) ∧
    (s.hostRead .four 0x010#17).1.getLsbD 1 = s.done ∧
    ((s.hostRead .four 0x010#17).1.getLsbD 2 = true ↔ s.errCode.value ≠ 0#8) ∧
    (s.hostRead .four 0x010#17).1.getLsbD 5 = s.overrun ∧
    (s.isBusy = false → (s.hostRead .four 0x010#17).1.getLsbD 3 = s.treeValid ∧
      (s.hostRead .four 0x010#17).1.getLsbD 4 = s.lutValid) ∧
    ∀ i : Nat, 6 ≤ i → (s.hostRead .four 0x010#17).1.getLsbD i = false

/-- 10_state.md R46, R47, R49, R53: an idle write to an operand register, BITCOUNT or FREQ stores the value and nothing else;
20_memory.md R83: a write to a read-only register, NODE or LUT is ignored. -/
def Obligations.IdleRegisterWrites : Prop :=
  ∀ (s : State) (v : Word), s.phase = .idle →
    s.hostWrite .four 0x01C#17 v = { s with srcAddr := v } ∧
    s.hostWrite .four 0x020#17 v = { s with srcLen := v } ∧
    s.hostWrite .four 0x024#17 v = { s with dstAddr := v } ∧
    s.hostWrite .four 0x028#17 v = { s with dstCap := v } ∧
    s.hostWrite .four 0x030#17 v = { s with bitCount := v } ∧
    (∀ sym : Symbol, s.hostWrite .four (BitVec.ofNat 17 (0x400 + 4 * sym.toNat)) v =
      { s with freq := s.freq.set sym.toNat v sym.isLt }) ∧
    (∀ off ∈ [0x000#17, 0x004#17, 0x010#17, 0x014#17, 0x018#17, 0x02C#17, 0x034#17, 0x038#17, 0x03C#17],
      s.hostWrite .four off v = s) ∧
    (∀ (n : Size) (off : Offset), 0x1000 ≤ off.toNat → off.toNat < 0x8000 → s.hostWrite n off v = s)

/-- 20_memory.md R86: an aligned DMEM access while idle: a read gives the bytes little-endian and changes nothing, a write stores its
low bytes little-endian and nothing else; R87, R88: a misaligned access or one beyond DMEM_BYTES reads 0 and writes nothing.
10_state.md R62: while busy an aligned read gives the low bytes of a fresh free word (logs 5 and 9: it holds for every one). -/
def Obligations.DmemWindow : Prop :=
  ∀ (s : State) (n : Size) (off : Offset) (v : Word), 0x10000 ≤ off.toNat →
    (s.phase = .idle → (off.toNat - 0x10000) % n.bytes = 0 →
      off.toNat - 0x10000 + n.bytes ≤ s.cfg.dmemBytes →
      (∀ i : Nat, i < n.bytes → (s.hostWrite n off v).byteAt (off.toNat - 0x10000 + i) =
        BitVec.ofNat 8 (v.toNat / 256 ^ i)) ∧
      s.sameMemoryBut (s.hostWrite n off v) (off.toNat - 0x10000) n.bytes ∧
      s.hostWrite n off v = { s with dmem := (s.hostWrite n off v).dmem } ∧
      (s.hostRead n off).2 = s ∧
      (∀ i : Nat, i < n.bytes → (s.hostRead n off).1.toNat / 256 ^ i % 256 =
        (s.byteAt (off.toNat - 0x10000 + i)).toNat) ∧
      (s.hostRead n off).1.toNat < 256 ^ n.bytes) ∧
    (s.phase = .idle → (off.toNat - 0x10000) % n.bytes ≠ 0 ∨
        s.cfg.dmemBytes < off.toNat - 0x10000 + n.bytes →
      s.hostRead n off = (0#32, s) ∧ s.hostWrite n off v = s) ∧
    (s.isBusy = true → (off.toNat - 0x10000) % n.bytes = 0 →
      off.toNat - 0x10000 + n.bytes ≤ s.cfg.dmemBytes →
      (s.hostRead n off).1.toNat = (Config.freeWord s.draws).toNat % 256 ^ n.bytes ∧
      (s.hostRead n off).2 = { s with draws := s.draws + 1 })

/-- 10_state.md R55: the four words of a NODE entry below NODE_COUNT, read while idle; a fresh free value for an entry from
NODE_COUNT on, and while busy (logs 5, 8 and 9: it holds for every one); 0 in the slot past entry 510, while busy too by the
model's reading (log 10). -/
def Obligations.NodeWindow : Prop :=
  ∀ (s : State) (i k : Nat), k < 4 →
    (∀ n : Node, s.phase = .idle → i < s.nodeCount.toNat → s.node[i]? = some n →
      s.hostRead .four (BitVec.ofNat 17 (0x1000 + 16 * i + 4 * k)) =
        (BitVec.ofNat 32
          (match k, n with
           | 0, .leaf sym _ => 1 + 256 * sym.toNat
           | 0, .internal _ _ _ => 0
           | 1, .leaf _ _ => 0
           | 1, .internal _ l r => l.toNat + 2 ^ 16 * r.toNat
           | 2, n => n.weight.toNat % 2 ^ 32
           | _, n => n.weight.toNat / 2 ^ 32), s)) ∧
    (i < 511 → s.isBusy = true ∨ s.nodeCount.toNat ≤ i →
      s.hostRead .four (BitVec.ofNat 17 (0x1000 + 16 * i + 4 * k)) =
        (Config.freeWord s.draws, { s with draws := s.draws + 1 })) ∧
    (i = 511 → s.hostRead .four (BitVec.ofNat 17 (0x1000 + 16 * i + 4 * k)) = (0#32, s))

/-- 10_state.md R58: the words of a LUT entry read while idle: LEN, zeros, and the code from bit 31 of word 8 on;
while busy a fresh free value (logs 5 and 9: it holds for every one). -/
def Obligations.LutWindow : Prop :=
  ∀ (s : State) (sym : Symbol) (k : Nat), k < 16 →
    (s.phase = .idle → s.CodesFit →
      (k = 0 → s.hostRead .four (BitVec.ofNat 17 (0x4000 + 64 * sym.toNat)) =
        (BitVec.ofNat 32 (codeAt s.lut sym).length, s)) ∧
      (1 ≤ k → k < 8 →
        s.hostRead .four (BitVec.ofNat 17 (0x4000 + 64 * sym.toNat + 4 * k)) = (0#32, s)) ∧
      (8 ≤ k → (s.hostRead .four (BitVec.ofNat 17 (0x4000 + 64 * sym.toNat + 4 * k))).2 = s ∧
        ∀ m : Nat, m < 32 →
          (s.hostRead .four (BitVec.ofNat 17 (0x4000 + 64 * sym.toNat + 4 * k))).1.getLsbD (31 - m) =
            (codeAt s.lut sym).getD (32 * (k - 8) + m) false)) ∧
    (s.isBusy = true → s.hostRead .four (BitVec.ofNat 17 (0x4000 + 64 * sym.toNat + 4 * k)) =
      (Config.freeWord s.draws, { s with draws := s.draws + 1 }))

/-! ### Rules of the whole machine -/

/-- 10_state.md R43: OVERRUN is set only by a dropped write, and cleared only by CTRL.CLR_OVERRUN or a reset. -/
def Obligations.OverrunChangesOnlyAsStated : Prop :=
  ∀ s t : State, step s = .next t →
    (s.overrun = false → t.overrun = true →
      s.isBusy = true ∧ ∃ n off v rest, s.events = .hostWrite n off v :: rest ∧
        ¬ (n = .four ∧ off = 0x008#17)) ∧
    (s.overrun = true → t.overrun = false →
      ∃ rest, s.events = .resetPulse :: rest ∨
        ∃ v, s.events = .hostWrite .four 0x008#17 v :: rest ∧ (v.getLsbD 0 = true ∨ v.getLsbD 1 = true))

/-- 10_state.md R41, R50, R54: the tree changes only by a completion of BUILD or DESERIALIZE or by a reset;
R57: the LUT only by a completion of GENLUT or by a reset; R52: FREQ only by a host write to it while idle or by a reset. -/
def Obligations.TablesChangeOnlyAsStated : Prop :=
  ∀ s t : State, step s = .next t →
    (∀ rest, s.events ≠ .resetPulse :: rest) →
    (∀ v rest, v.getLsbD 0 = true → s.events ≠ .hostWrite .four 0x008#17 v :: rest) →
    (¬ s.sameTree t →
      ∃ w, s.phase = .busy w ∧ t.phase = .idle ∧ (decode w = .ok .build ∨ decode w = .ok .deserialize)) ∧
    (t.lut ≠ s.lut → ∃ w, s.phase = .busy w ∧ t.phase = .idle ∧ decode w = .ok .genlut) ∧
    (t.freq ≠ s.freq → s.phase = .idle ∧ ∃ (sym : Symbol) (v : Word) (rest : List Event),
      s.events = .hostWrite .four (BitVec.ofNat 17 (0x400 + 4 * sym.toNat)) v :: rest)

/-- 10_state.md R61: the phase changes only by an issue, a completion or a reset. -/
def Obligations.PhaseChangesOnlyAsStated : Prop :=
  ∀ s t : State, step s = .next t → t.phase ≠ s.phase →
    (s.phase = .idle ∧ ∃ w rest, s.events = .hostWrite .four 0x00C#17 w :: rest ∧ t.phase = .busy w) ∨
    (s.isBusy = true ∧ t.phase = .idle ∧ t.done = true ∧
      (s.events = [] ∨ ∃ rest, s.events = .engineTurn :: rest)) ∨
    (t.phase = .idle ∧ ∃ rest, s.events = .resetPulse :: rest ∨
      ∃ v, v.getLsbD 0 = true ∧ s.events = .hostWrite .four 0x008#17 v :: rest)
end

