-- ==== Sys2Proof/Laws/Container.lean ====
section
/-! SUPPORT. Reading an artifact: the varint fields that are refused. -/

namespace Sys2Proof.Machine

/-- A field with a byte at fault is refused at that byte (30_encoding.md R142, 43_container.md R242). -/
theorem readVarint_of_varintFails {bytes : List Byte} {start i : Nat} {sub : Byte}
    (h : varintFails bytes start i sub) :
    readVarint bytes start = .error ⟨.corruptArtifact, sub, BitVec.ofNat 32 (start + i)⟩ := by
  obtain ⟨hi, hpre, hbad⟩ := h
  have hne : ∀ b : Byte, b.getLsbD 7 = true → b ≠ 0x00#8 := by
    rintro b hb rfl
    cases hb
  have step : ∀ (k n v : Nat) (gs : List Nat) , k + gs.length = 5 → gs = List.range' k gs.length → k + n = i →
      ∃ v', readGroups bytes gs (start + k) v = readGroups bytes (gs.drop n) (start + i) v' := by
    intro k n
    induction n generalizing k with
    | zero =>
      rintro v gs - - rfl
      exact ⟨v, rfl⟩
    | succ n ih =>
      intro v gs hlen hgs hk
      obtain ⟨b, hb, h7⟩ := hpre k (by omega)
      cases gs with
      | nil => simp at hlen; omega
      | cons g gs =>
        rw [List.length_cons, List.range'_succ, List.cons.injEq] at hgs
        obtain ⟨rfl, hgs⟩ := hgs
        obtain ⟨v', hv'⟩ := ih (g + 1) (v + b.toNat % 128 * 2 ^ (7 * g)) gs
          (by simp at hlen; omega) hgs (by omega)
        refine ⟨v', ?_⟩
        simp only [readGroups, hb, h7, hne b h7, show g ≠ 4 by omega, List.drop_succ_cons,
          false_and, and_false, if_false, if_true]
        exact hv'
  obtain ⟨v', hv'⟩ := step 0 i 0 [0, 1, 2, 3, 4] rfl rfl (by omega)
  rw [Nat.add_zero] at hv'
  rw [readVarint, hv']
  have hd : ∃ gs, [0, 1, 2, 3, 4].drop i = i :: gs := by
    interval_cases i <;> exact ⟨_, rfl⟩
  obtain ⟨gs, hgs⟩ := hd
  rw [hgs]
  rcases hbad with ⟨rfl, hb⟩ | ⟨rfl, b, hb, hb'⟩
  · simp [readGroups, hb, artifactError, ArtifactFault.value]
  · rcases hb' with ⟨rfl, h⟩ | ⟨h, rfl⟩
    · simp [readGroups, hb, h, artifactError, ArtifactFault.value]
    · simp [readGroups, hb, h, artifactError, ArtifactFault.value]

end Sys2Proof.Machine
end

