-- ==== Sys2Proof/Laws/Memory.lean ====
section
/-! SUPPORT. DMEM as a list of cells: a read after a write, and that every write keeps the canonical form. -/

namespace Sys2Proof.Machine

/-! ### Canonical form -/

/-- The canonical form as a relation between cells: every address in range, and strictly rising. -/
theorem Mem.wf_iff (size : Nat) (m : List Host.Cell) :
    Mem.wf size m = true ↔ (∀ c ∈ m, c.1 < size) ∧ m.Pairwise (fun c d => c.1 < d.1) := by
  induction m with
  | nil => simp [Mem.wf]
  | cons c cs ih =>
    cases cs with
    | nil => simp [Mem.wf]
    | cons d ds =>
      rw [Mem.wf, Bool.and_eq_true, decide_eq_true_eq, ih]
      constructor
      · rintro ⟨hcd, hall, hpw⟩
        have hd := (List.pairwise_cons.1 hpw).1
        refine ⟨List.forall_mem_cons.2 ⟨hcd.trans (hall d (by simp)), hall⟩,
          List.pairwise_cons.2 ⟨?_, hpw⟩⟩
        intro e he
        rcases List.mem_cons.1 he with rfl | he
        · exact hcd
        · exact hcd.trans (hd e he)
      · rintro ⟨hall, hpw⟩
        have h := List.pairwise_cons.1 hpw
        exact ⟨h.1 d (by simp), fun e he => hall e (List.mem_cons_of_mem _ he), h.2⟩

theorem Mem.mem_cellsFrom {a : Nat} {bs : List Byte} {c : Host.Cell} (h : c ∈ Mem.cellsFrom a bs) :
    a ≤ c.1 ∧ c.1 < a + bs.length := by
  induction bs generalizing a with
  | nil => simp [Mem.cellsFrom] at h
  | cons b bs ih =>
    rcases List.mem_cons.1 h with rfl | h
    · simp
    · have := ih h
      simp only [List.length_cons]
      omega

theorem Mem.pairwise_cellsFrom (a : Nat) (bs : List Byte) :
    (Mem.cellsFrom a bs).Pairwise (fun c d => c.1 < d.1) := by
  induction bs generalizing a with
  | nil => simp [Mem.cellsFrom]
  | cons b bs ih =>
    refine List.pairwise_cons.2 ⟨fun d hd => ?_, ih (a + 1)⟩
    have := Mem.mem_cellsFrom hd
    simp only
    omega

/-- A write of bytes that lie in DMEM keeps the canonical form. -/
theorem Mem.wf_store {size : Nat} {m : List Host.Cell} (h : Mem.wf size m = true) {a : Nat}
    {bs : List Byte} (hin : bs = [] ∨ a + bs.length ≤ size) :
    Mem.wf size (Mem.store m a bs) = true := by
  rw [Mem.wf_iff] at h ⊢
  obtain ⟨hall, hpw⟩ := h
  constructor
  · intro c hc
    rcases List.mem_append.1 hc with hc | hc
    · rcases List.mem_append.1 hc with hc | hc
      · exact hall c (List.mem_filter.1 hc).1
      · have := Mem.mem_cellsFrom hc
        rcases hin with rfl | hin
        · simp [Mem.cellsFrom] at hc
        · omega
    · exact hall c (List.mem_filter.1 hc).1
  · refine List.pairwise_append.2 ⟨List.pairwise_append.2
      ⟨hpw.filter _, Mem.pairwise_cellsFrom a bs, ?_⟩, hpw.filter _, ?_⟩
    · intro c hc d hd
      have h1 := (List.mem_filter.1 hc).2
      have h2 := Mem.mem_cellsFrom hd
      simp only [decide_eq_true_eq] at h1
      omega
    · intro c hc d hd
      have h2 := (List.mem_filter.1 hd).2
      simp only [decide_eq_true_eq] at h2
      rcases List.mem_append.1 hc with hc | hc
      · have h1 := (List.mem_filter.1 hc).2
        simp only [decide_eq_true_eq] at h1
        omega
      · have h1 := Mem.mem_cellsFrom hc
        omega

/-! ### Read after write -/

theorem Mem.lookup_append (m n : List Host.Cell) (a : Nat) :
    Mem.lookup (m ++ n) a = (Mem.lookup m a).or (Mem.lookup n a) := by
  induction m with
  | nil => simp [Mem.lookup]
  | cons c cs ih =>
    simp only [List.cons_append, Mem.lookup]
    split <;> simp [ih]

theorem Mem.lookup_filter (m : List Host.Cell) (p : Nat → Bool) (a : Nat) :
    Mem.lookup (m.filter fun c => p c.1) a = if p a then Mem.lookup m a else none := by
  induction m with
  | nil => simp [Mem.lookup]
  | cons c cs ih =>
    by_cases hp : p c.1 <;> by_cases hc : c.1 = a <;> simp_all [Mem.lookup]

theorem Mem.lookup_cellsFrom (a : Nat) (bs : List Byte) (b : Nat) :
    Mem.lookup (Mem.cellsFrom a bs) b = if a ≤ b then bs[b - a]? else none := by
  induction bs generalizing a with
  | nil => simp [Mem.cellsFrom, Mem.lookup]
  | cons x xs ih =>
    simp only [Mem.cellsFrom, Mem.lookup, ih]
    by_cases h : a = b
    · simp [h]
    · by_cases h2 : a ≤ b
      · have h3 : a + 1 ≤ b := by omega
        have h4 : b - a = (b - (a + 1)) + 1 := by omega
        simp [h, h2, h3, h4]
      · simp [h, h2, show ¬ a + 1 ≤ b by omega]

/-- What a write leaves at an address: the byte written there, or what was there before. -/
theorem Mem.lookup_store (m : List Host.Cell) (a : Nat) (bs : List Byte) (b : Nat) :
    Mem.lookup (Mem.store m a bs) b =
      if a ≤ b ∧ b < a + bs.length then bs[b - a]? else Mem.lookup m b := by
  rw [Mem.store, Mem.lookup_append, Mem.lookup_append,
    Mem.lookup_filter m (fun x => decide (x < a)),
    Mem.lookup_filter m (fun x => decide (a + bs.length ≤ x)), Mem.lookup_cellsFrom]
  by_cases h1 : b < a
  · simp [h1, show ¬ a ≤ b by omega, show ¬ a + bs.length ≤ b by omega]
  · by_cases h2 : b < a + bs.length
    · have h3 : b - a < bs.length := by omega
      simp [h1, h2, show a ≤ b by omega, h3, show ¬ a + bs.length ≤ b by omega]
    · have h3 : bs[b - a]? = none := List.getElem?_eq_none (by omega)
      simp [h1, h2, show a + bs.length ≤ b by omega, h3]

/-! ### Bytes of the state -/

@[simp] theorem State.length_freeBytes (s : State) (n : Nat) : (s.freeBytes n).length = n := by
  simp [State.freeBytes]

/-- A byte outside a write reads as before. -/
theorem State.byteAt_store_outside (s : State) {a b : Nat} {bs : List Byte}
    (h : b < a ∨ a + bs.length ≤ b) : (s.store a bs).byteAt b = s.byteAt b := by
  have : ¬ (a ≤ b ∧ b < a + bs.length) := by omega
  simp [State.byteAt, State.store, Mem.lookup_store, this]

/-- A byte of a write reads as it was written. -/
theorem State.byteAt_store_inside (s : State) {a i : Nat} {bs : List Byte} (h : i < bs.length) :
    (s.store a bs).byteAt (a + i) = bs[i] := by
  simp [State.byteAt, State.store, Mem.lookup_store, h]

/-- DMEM made any() reads as before outside the range. -/
theorem State.byteAt_storeFree_outside (s : State) {a n b : Nat} (h : b < a ∨ a + n ≤ b) :
    (s.storeFree a n).byteAt b = s.byteAt b :=
  State.byteAt_store_outside s (by simpa using h)

/-- A write of bytes that lie in DMEM keeps the canonical form. -/
theorem State.wf_store (s : State) {a : Nat} {bs : List Byte}
    (h : Mem.wf s.cfg.dmemBytes s.dmem = true) (hin : bs = [] ∨ a + bs.length ≤ s.cfg.dmemBytes) :
    Mem.wf (s.store a bs).cfg.dmemBytes (s.store a bs).dmem = true :=
  Mem.wf_store h hin

/-- Making the destination range any() keeps the canonical form: the range is clipped to DMEM. -/
theorem State.wf_loseDst (s : State) (h : Mem.wf s.cfg.dmemBytes s.dmem = true) :
    Mem.wf s.loseDst.cfg.dmemBytes s.loseDst.dmem = true := by
  apply Mem.wf_store h
  by_cases h0 : s.dstClipped = 0
  · left
    rw [h0]
    rfl
  · right
    rw [State.length_freeBytes]
    unfold State.dstClipped at h0 ⊢
    omega

/-- The memory after reset is in canonical form. -/
theorem State.wf_reset : Mem.wf State.reset.cfg.dmemBytes State.reset.dmem = true := rfl

/-- The memory after a hardware reset is in canonical form. -/
theorem State.wf_hardReset (s : State) : Mem.wf s.hardReset.cfg.dmemBytes s.hardReset.dmem = true := rfl

end Sys2Proof.Machine
end

