-- ==== Sys2Proof/Laws/State.lean ====
section
/-! SUPPORT. One lemma per field per update of the state, each true by rfl. -/

namespace Sys2Proof.Machine

/-! ### State.store -/

@[simp] theorem State.store_cfg (s : State) (a : Nat) (bs : List Byte) : (s.store a bs).cfg = s.cfg := rfl
@[simp] theorem State.store_phase (s : State) (a : Nat) (bs : List Byte) : (s.store a bs).phase = s.phase := rfl
@[simp] theorem State.store_irqEn (s : State) (a : Nat) (bs : List Byte) : (s.store a bs).irqEn = s.irqEn := rfl
@[simp] theorem State.store_done (s : State) (a : Nat) (bs : List Byte) : (s.store a bs).done = s.done := rfl
@[simp] theorem State.store_treeValid (s : State) (a : Nat) (bs : List Byte) : (s.store a bs).treeValid = s.treeValid := rfl
@[simp] theorem State.store_lutValid (s : State) (a : Nat) (bs : List Byte) : (s.store a bs).lutValid = s.lutValid := rfl
@[simp] theorem State.store_overrun (s : State) (a : Nat) (bs : List Byte) : (s.store a bs).overrun = s.overrun := rfl
@[simp] theorem State.store_errCode (s : State) (a : Nat) (bs : List Byte) : (s.store a bs).errCode = s.errCode := rfl
@[simp] theorem State.store_errSub (s : State) (a : Nat) (bs : List Byte) : (s.store a bs).errSub = s.errSub := rfl
@[simp] theorem State.store_errInfo (s : State) (a : Nat) (bs : List Byte) : (s.store a bs).errInfo = s.errInfo := rfl
@[simp] theorem State.store_srcAddr (s : State) (a : Nat) (bs : List Byte) : (s.store a bs).srcAddr = s.srcAddr := rfl
@[simp] theorem State.store_srcLen (s : State) (a : Nat) (bs : List Byte) : (s.store a bs).srcLen = s.srcLen := rfl
@[simp] theorem State.store_dstAddr (s : State) (a : Nat) (bs : List Byte) : (s.store a bs).dstAddr = s.dstAddr := rfl
@[simp] theorem State.store_dstCap (s : State) (a : Nat) (bs : List Byte) : (s.store a bs).dstCap = s.dstCap := rfl
@[simp] theorem State.store_outLen (s : State) (a : Nat) (bs : List Byte) : (s.store a bs).outLen = s.outLen := rfl
@[simp] theorem State.store_bitCount (s : State) (a : Nat) (bs : List Byte) : (s.store a bs).bitCount = s.bitCount := rfl
@[simp] theorem State.store_nodeCount (s : State) (a : Nat) (bs : List Byte) : (s.store a bs).nodeCount = s.nodeCount := rfl
@[simp] theorem State.store_root (s : State) (a : Nat) (bs : List Byte) : (s.store a bs).root = s.root := rfl
@[simp] theorem State.store_leafCount (s : State) (a : Nat) (bs : List Byte) : (s.store a bs).leafCount = s.leafCount := rfl
@[simp] theorem State.store_freq (s : State) (a : Nat) (bs : List Byte) : (s.store a bs).freq = s.freq := rfl
@[simp] theorem State.store_node (s : State) (a : Nat) (bs : List Byte) : (s.store a bs).node = s.node := rfl
@[simp] theorem State.store_lut (s : State) (a : Nat) (bs : List Byte) : (s.store a bs).lut = s.lut := rfl
@[simp] theorem State.store_dmem (s : State) (a : Nat) (bs : List Byte) : (s.store a bs).dmem = Mem.store s.dmem a bs := rfl
@[simp] theorem State.store_powerOn (s : State) (a : Nat) (bs : List Byte) : (s.store a bs).powerOn = s.powerOn := rfl
@[simp] theorem State.store_draws (s : State) (a : Nat) (bs : List Byte) : (s.store a bs).draws = s.draws := rfl
@[simp] theorem State.store_events (s : State) (a : Nat) (bs : List Byte) : (s.store a bs).events = s.events := rfl
@[simp] theorem State.store_readData (s : State) (a : Nat) (bs : List Byte) : (s.store a bs).readData = s.readData := rfl

/-! ### State.storeDst -/

@[simp] theorem State.storeDst_cfg (s : State) (bs : List Byte) : (s.storeDst bs).cfg = s.cfg := rfl
@[simp] theorem State.storeDst_phase (s : State) (bs : List Byte) : (s.storeDst bs).phase = s.phase := rfl
@[simp] theorem State.storeDst_irqEn (s : State) (bs : List Byte) : (s.storeDst bs).irqEn = s.irqEn := rfl
@[simp] theorem State.storeDst_done (s : State) (bs : List Byte) : (s.storeDst bs).done = s.done := rfl
@[simp] theorem State.storeDst_treeValid (s : State) (bs : List Byte) : (s.storeDst bs).treeValid = s.treeValid := rfl
@[simp] theorem State.storeDst_lutValid (s : State) (bs : List Byte) : (s.storeDst bs).lutValid = s.lutValid := rfl
@[simp] theorem State.storeDst_overrun (s : State) (bs : List Byte) : (s.storeDst bs).overrun = s.overrun := rfl
@[simp] theorem State.storeDst_errCode (s : State) (bs : List Byte) : (s.storeDst bs).errCode = s.errCode := rfl
@[simp] theorem State.storeDst_errSub (s : State) (bs : List Byte) : (s.storeDst bs).errSub = s.errSub := rfl
@[simp] theorem State.storeDst_errInfo (s : State) (bs : List Byte) : (s.storeDst bs).errInfo = s.errInfo := rfl
@[simp] theorem State.storeDst_srcAddr (s : State) (bs : List Byte) : (s.storeDst bs).srcAddr = s.srcAddr := rfl
@[simp] theorem State.storeDst_srcLen (s : State) (bs : List Byte) : (s.storeDst bs).srcLen = s.srcLen := rfl
@[simp] theorem State.storeDst_dstAddr (s : State) (bs : List Byte) : (s.storeDst bs).dstAddr = s.dstAddr := rfl
@[simp] theorem State.storeDst_dstCap (s : State) (bs : List Byte) : (s.storeDst bs).dstCap = s.dstCap := rfl
@[simp] theorem State.storeDst_outLen (s : State) (bs : List Byte) : (s.storeDst bs).outLen = s.outLen := rfl
@[simp] theorem State.storeDst_bitCount (s : State) (bs : List Byte) : (s.storeDst bs).bitCount = s.bitCount := rfl
@[simp] theorem State.storeDst_nodeCount (s : State) (bs : List Byte) : (s.storeDst bs).nodeCount = s.nodeCount := rfl
@[simp] theorem State.storeDst_root (s : State) (bs : List Byte) : (s.storeDst bs).root = s.root := rfl
@[simp] theorem State.storeDst_leafCount (s : State) (bs : List Byte) : (s.storeDst bs).leafCount = s.leafCount := rfl
@[simp] theorem State.storeDst_freq (s : State) (bs : List Byte) : (s.storeDst bs).freq = s.freq := rfl
@[simp] theorem State.storeDst_node (s : State) (bs : List Byte) : (s.storeDst bs).node = s.node := rfl
@[simp] theorem State.storeDst_lut (s : State) (bs : List Byte) : (s.storeDst bs).lut = s.lut := rfl
@[simp] theorem State.storeDst_dmem (s : State) (bs : List Byte) : (s.storeDst bs).dmem = Mem.store s.dmem s.dstAddr.toNat bs := rfl
@[simp] theorem State.storeDst_powerOn (s : State) (bs : List Byte) : (s.storeDst bs).powerOn = s.powerOn := rfl
@[simp] theorem State.storeDst_draws (s : State) (bs : List Byte) : (s.storeDst bs).draws = s.draws := rfl
@[simp] theorem State.storeDst_events (s : State) (bs : List Byte) : (s.storeDst bs).events = s.events := rfl
@[simp] theorem State.storeDst_readData (s : State) (bs : List Byte) : (s.storeDst bs).readData = s.readData := rfl

/-! ### State.storeFree -/

@[simp] theorem State.storeFree_cfg (s : State) (a n : Nat) : (s.storeFree a n).cfg = s.cfg := rfl
@[simp] theorem State.storeFree_phase (s : State) (a n : Nat) : (s.storeFree a n).phase = s.phase := rfl
@[simp] theorem State.storeFree_irqEn (s : State) (a n : Nat) : (s.storeFree a n).irqEn = s.irqEn := rfl
@[simp] theorem State.storeFree_done (s : State) (a n : Nat) : (s.storeFree a n).done = s.done := rfl
@[simp] theorem State.storeFree_treeValid (s : State) (a n : Nat) : (s.storeFree a n).treeValid = s.treeValid := rfl
@[simp] theorem State.storeFree_lutValid (s : State) (a n : Nat) : (s.storeFree a n).lutValid = s.lutValid := rfl
@[simp] theorem State.storeFree_overrun (s : State) (a n : Nat) : (s.storeFree a n).overrun = s.overrun := rfl
@[simp] theorem State.storeFree_errCode (s : State) (a n : Nat) : (s.storeFree a n).errCode = s.errCode := rfl
@[simp] theorem State.storeFree_errSub (s : State) (a n : Nat) : (s.storeFree a n).errSub = s.errSub := rfl
@[simp] theorem State.storeFree_errInfo (s : State) (a n : Nat) : (s.storeFree a n).errInfo = s.errInfo := rfl
@[simp] theorem State.storeFree_srcAddr (s : State) (a n : Nat) : (s.storeFree a n).srcAddr = s.srcAddr := rfl
@[simp] theorem State.storeFree_srcLen (s : State) (a n : Nat) : (s.storeFree a n).srcLen = s.srcLen := rfl
@[simp] theorem State.storeFree_dstAddr (s : State) (a n : Nat) : (s.storeFree a n).dstAddr = s.dstAddr := rfl
@[simp] theorem State.storeFree_dstCap (s : State) (a n : Nat) : (s.storeFree a n).dstCap = s.dstCap := rfl
@[simp] theorem State.storeFree_outLen (s : State) (a n : Nat) : (s.storeFree a n).outLen = s.outLen := rfl
@[simp] theorem State.storeFree_bitCount (s : State) (a n : Nat) : (s.storeFree a n).bitCount = s.bitCount := rfl
@[simp] theorem State.storeFree_nodeCount (s : State) (a n : Nat) : (s.storeFree a n).nodeCount = s.nodeCount := rfl
@[simp] theorem State.storeFree_root (s : State) (a n : Nat) : (s.storeFree a n).root = s.root := rfl
@[simp] theorem State.storeFree_leafCount (s : State) (a n : Nat) : (s.storeFree a n).leafCount = s.leafCount := rfl
@[simp] theorem State.storeFree_freq (s : State) (a n : Nat) : (s.storeFree a n).freq = s.freq := rfl
@[simp] theorem State.storeFree_node (s : State) (a n : Nat) : (s.storeFree a n).node = s.node := rfl
@[simp] theorem State.storeFree_lut (s : State) (a n : Nat) : (s.storeFree a n).lut = s.lut := rfl
@[simp] theorem State.storeFree_dmem (s : State) (a n : Nat) : (s.storeFree a n).dmem = Mem.store s.dmem a (s.freeBytes n) := rfl
@[simp] theorem State.storeFree_powerOn (s : State) (a n : Nat) : (s.storeFree a n).powerOn = s.powerOn := rfl
@[simp] theorem State.storeFree_draws (s : State) (a n : Nat) : (s.storeFree a n).draws = s.draws + 1 := rfl
@[simp] theorem State.storeFree_events (s : State) (a n : Nat) : (s.storeFree a n).events = s.events := rfl
@[simp] theorem State.storeFree_readData (s : State) (a n : Nat) : (s.storeFree a n).readData = s.readData := rfl

/-! ### State.loseDst -/

@[simp] theorem State.loseDst_cfg (s : State) : s.loseDst.cfg = s.cfg := rfl
@[simp] theorem State.loseDst_phase (s : State) : s.loseDst.phase = s.phase := rfl
@[simp] theorem State.loseDst_irqEn (s : State) : s.loseDst.irqEn = s.irqEn := rfl
@[simp] theorem State.loseDst_done (s : State) : s.loseDst.done = s.done := rfl
@[simp] theorem State.loseDst_treeValid (s : State) : s.loseDst.treeValid = s.treeValid := rfl
@[simp] theorem State.loseDst_lutValid (s : State) : s.loseDst.lutValid = s.lutValid := rfl
@[simp] theorem State.loseDst_overrun (s : State) : s.loseDst.overrun = s.overrun := rfl
@[simp] theorem State.loseDst_errCode (s : State) : s.loseDst.errCode = s.errCode := rfl
@[simp] theorem State.loseDst_errSub (s : State) : s.loseDst.errSub = s.errSub := rfl
@[simp] theorem State.loseDst_errInfo (s : State) : s.loseDst.errInfo = s.errInfo := rfl
@[simp] theorem State.loseDst_srcAddr (s : State) : s.loseDst.srcAddr = s.srcAddr := rfl
@[simp] theorem State.loseDst_srcLen (s : State) : s.loseDst.srcLen = s.srcLen := rfl
@[simp] theorem State.loseDst_dstAddr (s : State) : s.loseDst.dstAddr = s.dstAddr := rfl
@[simp] theorem State.loseDst_dstCap (s : State) : s.loseDst.dstCap = s.dstCap := rfl
@[simp] theorem State.loseDst_outLen (s : State) : s.loseDst.outLen = s.outLen := rfl
@[simp] theorem State.loseDst_bitCount (s : State) : s.loseDst.bitCount = s.bitCount := rfl
@[simp] theorem State.loseDst_nodeCount (s : State) : s.loseDst.nodeCount = s.nodeCount := rfl
@[simp] theorem State.loseDst_root (s : State) : s.loseDst.root = s.root := rfl
@[simp] theorem State.loseDst_leafCount (s : State) : s.loseDst.leafCount = s.leafCount := rfl
@[simp] theorem State.loseDst_freq (s : State) : s.loseDst.freq = s.freq := rfl
@[simp] theorem State.loseDst_node (s : State) : s.loseDst.node = s.node := rfl
@[simp] theorem State.loseDst_lut (s : State) : s.loseDst.lut = s.lut := rfl
@[simp] theorem State.loseDst_dmem (s : State) : s.loseDst.dmem = Mem.store s.dmem s.dstAddr.toNat (s.freeBytes s.dstClipped) := rfl
@[simp] theorem State.loseDst_powerOn (s : State) : s.loseDst.powerOn = s.powerOn := rfl
@[simp] theorem State.loseDst_draws (s : State) : s.loseDst.draws = s.draws + 1 := rfl
@[simp] theorem State.loseDst_events (s : State) : s.loseDst.events = s.events := rfl
@[simp] theorem State.loseDst_readData (s : State) : s.loseDst.readData = s.readData := rfl

/-! ### State.issue -/

@[simp] theorem State.issue_cfg (s : State) (w : Word) : (s.issue w).cfg = s.cfg := rfl
@[simp] theorem State.issue_phase (s : State) (w : Word) : (s.issue w).phase = .busy w := rfl
@[simp] theorem State.issue_irqEn (s : State) (w : Word) : (s.issue w).irqEn = s.irqEn := rfl
@[simp] theorem State.issue_done (s : State) (w : Word) : (s.issue w).done = false := rfl
@[simp] theorem State.issue_treeValid (s : State) (w : Word) : (s.issue w).treeValid = s.treeValid := rfl
@[simp] theorem State.issue_lutValid (s : State) (w : Word) : (s.issue w).lutValid = s.lutValid := rfl
@[simp] theorem State.issue_overrun (s : State) (w : Word) : (s.issue w).overrun = s.overrun := rfl
@[simp] theorem State.issue_errCode (s : State) (w : Word) : (s.issue w).errCode = .none := rfl
@[simp] theorem State.issue_errSub (s : State) (w : Word) : (s.issue w).errSub = 0 := rfl
@[simp] theorem State.issue_errInfo (s : State) (w : Word) : (s.issue w).errInfo = 0 := rfl
@[simp] theorem State.issue_srcAddr (s : State) (w : Word) : (s.issue w).srcAddr = s.srcAddr := rfl
@[simp] theorem State.issue_srcLen (s : State) (w : Word) : (s.issue w).srcLen = s.srcLen := rfl
@[simp] theorem State.issue_dstAddr (s : State) (w : Word) : (s.issue w).dstAddr = s.dstAddr := rfl
@[simp] theorem State.issue_dstCap (s : State) (w : Word) : (s.issue w).dstCap = s.dstCap := rfl
@[simp] theorem State.issue_outLen (s : State) (w : Word) : (s.issue w).outLen = s.outLen := rfl
@[simp] theorem State.issue_bitCount (s : State) (w : Word) : (s.issue w).bitCount = s.bitCount := rfl
@[simp] theorem State.issue_nodeCount (s : State) (w : Word) : (s.issue w).nodeCount = s.nodeCount := rfl
@[simp] theorem State.issue_root (s : State) (w : Word) : (s.issue w).root = s.root := rfl
@[simp] theorem State.issue_leafCount (s : State) (w : Word) : (s.issue w).leafCount = s.leafCount := rfl
@[simp] theorem State.issue_freq (s : State) (w : Word) : (s.issue w).freq = s.freq := rfl
@[simp] theorem State.issue_node (s : State) (w : Word) : (s.issue w).node = s.node := rfl
@[simp] theorem State.issue_lut (s : State) (w : Word) : (s.issue w).lut = s.lut := rfl
@[simp] theorem State.issue_dmem (s : State) (w : Word) : (s.issue w).dmem = s.dmem := rfl
@[simp] theorem State.issue_powerOn (s : State) (w : Word) : (s.issue w).powerOn = s.powerOn := rfl
@[simp] theorem State.issue_draws (s : State) (w : Word) : (s.issue w).draws = s.draws := rfl
@[simp] theorem State.issue_events (s : State) (w : Word) : (s.issue w).events = s.events := rfl
@[simp] theorem State.issue_readData (s : State) (w : Word) : (s.issue w).readData = s.readData := rfl

/-! ### State.complete -/

@[simp] theorem State.complete_cfg (s : State) (e : Error) (out : Word) : (s.complete e out).cfg = s.cfg := rfl
@[simp] theorem State.complete_phase (s : State) (e : Error) (out : Word) : (s.complete e out).phase = .idle := rfl
@[simp] theorem State.complete_irqEn (s : State) (e : Error) (out : Word) : (s.complete e out).irqEn = s.irqEn := rfl
@[simp] theorem State.complete_done (s : State) (e : Error) (out : Word) : (s.complete e out).done = true := rfl
@[simp] theorem State.complete_treeValid (s : State) (e : Error) (out : Word) : (s.complete e out).treeValid = s.treeValid := rfl
@[simp] theorem State.complete_lutValid (s : State) (e : Error) (out : Word) : (s.complete e out).lutValid = s.lutValid := rfl
@[simp] theorem State.complete_overrun (s : State) (e : Error) (out : Word) : (s.complete e out).overrun = s.overrun := rfl
@[simp] theorem State.complete_errCode (s : State) (e : Error) (out : Word) : (s.complete e out).errCode = e.code := rfl
@[simp] theorem State.complete_errSub (s : State) (e : Error) (out : Word) : (s.complete e out).errSub = e.sub := rfl
@[simp] theorem State.complete_errInfo (s : State) (e : Error) (out : Word) : (s.complete e out).errInfo = e.info := rfl
@[simp] theorem State.complete_srcAddr (s : State) (e : Error) (out : Word) : (s.complete e out).srcAddr = s.srcAddr := rfl
@[simp] theorem State.complete_srcLen (s : State) (e : Error) (out : Word) : (s.complete e out).srcLen = s.srcLen := rfl
@[simp] theorem State.complete_dstAddr (s : State) (e : Error) (out : Word) : (s.complete e out).dstAddr = s.dstAddr := rfl
@[simp] theorem State.complete_dstCap (s : State) (e : Error) (out : Word) : (s.complete e out).dstCap = s.dstCap := rfl
@[simp] theorem State.complete_outLen (s : State) (e : Error) (out : Word) : (s.complete e out).outLen = out := rfl
@[simp] theorem State.complete_bitCount (s : State) (e : Error) (out : Word) : (s.complete e out).bitCount = s.bitCount := rfl
@[simp] theorem State.complete_nodeCount (s : State) (e : Error) (out : Word) : (s.complete e out).nodeCount = s.nodeCount := rfl
@[simp] theorem State.complete_root (s : State) (e : Error) (out : Word) : (s.complete e out).root = s.root := rfl
@[simp] theorem State.complete_leafCount (s : State) (e : Error) (out : Word) : (s.complete e out).leafCount = s.leafCount := rfl
@[simp] theorem State.complete_freq (s : State) (e : Error) (out : Word) : (s.complete e out).freq = s.freq := rfl
@[simp] theorem State.complete_node (s : State) (e : Error) (out : Word) : (s.complete e out).node = s.node := rfl
@[simp] theorem State.complete_lut (s : State) (e : Error) (out : Word) : (s.complete e out).lut = s.lut := rfl
@[simp] theorem State.complete_dmem (s : State) (e : Error) (out : Word) : (s.complete e out).dmem = s.dmem := rfl
@[simp] theorem State.complete_powerOn (s : State) (e : Error) (out : Word) : (s.complete e out).powerOn = s.powerOn := rfl
@[simp] theorem State.complete_draws (s : State) (e : Error) (out : Word) : (s.complete e out).draws = s.draws := rfl
@[simp] theorem State.complete_events (s : State) (e : Error) (out : Word) : (s.complete e out).events = s.events := rfl
@[simp] theorem State.complete_readData (s : State) (e : Error) (out : Word) : (s.complete e out).readData = s.readData := rfl

/-! ### State.finish -/

@[simp] theorem State.finish_cfg (s : State) (out : Nat) : (s.finish out).cfg = s.cfg := rfl
@[simp] theorem State.finish_phase (s : State) (out : Nat) : (s.finish out).phase = .idle := rfl
@[simp] theorem State.finish_irqEn (s : State) (out : Nat) : (s.finish out).irqEn = s.irqEn := rfl
@[simp] theorem State.finish_done (s : State) (out : Nat) : (s.finish out).done = true := rfl
@[simp] theorem State.finish_treeValid (s : State) (out : Nat) : (s.finish out).treeValid = s.treeValid := rfl
@[simp] theorem State.finish_lutValid (s : State) (out : Nat) : (s.finish out).lutValid = s.lutValid := rfl
@[simp] theorem State.finish_overrun (s : State) (out : Nat) : (s.finish out).overrun = s.overrun := rfl
@[simp] theorem State.finish_errCode (s : State) (out : Nat) : (s.finish out).errCode = .none := rfl
@[simp] theorem State.finish_errSub (s : State) (out : Nat) : (s.finish out).errSub = 0 := rfl
@[simp] theorem State.finish_errInfo (s : State) (out : Nat) : (s.finish out).errInfo = 0 := rfl
@[simp] theorem State.finish_srcAddr (s : State) (out : Nat) : (s.finish out).srcAddr = s.srcAddr := rfl
@[simp] theorem State.finish_srcLen (s : State) (out : Nat) : (s.finish out).srcLen = s.srcLen := rfl
@[simp] theorem State.finish_dstAddr (s : State) (out : Nat) : (s.finish out).dstAddr = s.dstAddr := rfl
@[simp] theorem State.finish_dstCap (s : State) (out : Nat) : (s.finish out).dstCap = s.dstCap := rfl
@[simp] theorem State.finish_outLen (s : State) (out : Nat) : (s.finish out).outLen = BitVec.ofNat 32 out := rfl
@[simp] theorem State.finish_bitCount (s : State) (out : Nat) : (s.finish out).bitCount = s.bitCount := rfl
@[simp] theorem State.finish_nodeCount (s : State) (out : Nat) : (s.finish out).nodeCount = s.nodeCount := rfl
@[simp] theorem State.finish_root (s : State) (out : Nat) : (s.finish out).root = s.root := rfl
@[simp] theorem State.finish_leafCount (s : State) (out : Nat) : (s.finish out).leafCount = s.leafCount := rfl
@[simp] theorem State.finish_freq (s : State) (out : Nat) : (s.finish out).freq = s.freq := rfl
@[simp] theorem State.finish_node (s : State) (out : Nat) : (s.finish out).node = s.node := rfl
@[simp] theorem State.finish_lut (s : State) (out : Nat) : (s.finish out).lut = s.lut := rfl
@[simp] theorem State.finish_dmem (s : State) (out : Nat) : (s.finish out).dmem = s.dmem := rfl
@[simp] theorem State.finish_powerOn (s : State) (out : Nat) : (s.finish out).powerOn = s.powerOn := rfl
@[simp] theorem State.finish_draws (s : State) (out : Nat) : (s.finish out).draws = s.draws := rfl
@[simp] theorem State.finish_events (s : State) (out : Nat) : (s.finish out).events = s.events := rfl
@[simp] theorem State.finish_readData (s : State) (out : Nat) : (s.finish out).readData = s.readData := rfl

/-! ### State.acknowledge -/

@[simp] theorem State.acknowledge_cfg (s : State) (ack : Bool) : (s.acknowledge ack).cfg = s.cfg := rfl
@[simp] theorem State.acknowledge_phase (s : State) (ack : Bool) : (s.acknowledge ack).phase = s.phase := rfl
@[simp] theorem State.acknowledge_irqEn (s : State) (ack : Bool) : (s.acknowledge ack).irqEn = s.irqEn := rfl
@[simp] theorem State.acknowledge_done (s : State) (ack : Bool) : (s.acknowledge ack).done = (s.done && !ack) := rfl
@[simp] theorem State.acknowledge_treeValid (s : State) (ack : Bool) : (s.acknowledge ack).treeValid = s.treeValid := rfl
@[simp] theorem State.acknowledge_lutValid (s : State) (ack : Bool) : (s.acknowledge ack).lutValid = s.lutValid := rfl
@[simp] theorem State.acknowledge_overrun (s : State) (ack : Bool) : (s.acknowledge ack).overrun = s.overrun := rfl
@[simp] theorem State.acknowledge_errCode (s : State) (ack : Bool) : (s.acknowledge ack).errCode = s.errCode := rfl
@[simp] theorem State.acknowledge_errSub (s : State) (ack : Bool) : (s.acknowledge ack).errSub = s.errSub := rfl
@[simp] theorem State.acknowledge_errInfo (s : State) (ack : Bool) : (s.acknowledge ack).errInfo = s.errInfo := rfl
@[simp] theorem State.acknowledge_srcAddr (s : State) (ack : Bool) : (s.acknowledge ack).srcAddr = s.srcAddr := rfl
@[simp] theorem State.acknowledge_srcLen (s : State) (ack : Bool) : (s.acknowledge ack).srcLen = s.srcLen := rfl
@[simp] theorem State.acknowledge_dstAddr (s : State) (ack : Bool) : (s.acknowledge ack).dstAddr = s.dstAddr := rfl
@[simp] theorem State.acknowledge_dstCap (s : State) (ack : Bool) : (s.acknowledge ack).dstCap = s.dstCap := rfl
@[simp] theorem State.acknowledge_outLen (s : State) (ack : Bool) : (s.acknowledge ack).outLen = s.outLen := rfl
@[simp] theorem State.acknowledge_bitCount (s : State) (ack : Bool) : (s.acknowledge ack).bitCount = s.bitCount := rfl
@[simp] theorem State.acknowledge_nodeCount (s : State) (ack : Bool) : (s.acknowledge ack).nodeCount = s.nodeCount := rfl
@[simp] theorem State.acknowledge_root (s : State) (ack : Bool) : (s.acknowledge ack).root = s.root := rfl
@[simp] theorem State.acknowledge_leafCount (s : State) (ack : Bool) : (s.acknowledge ack).leafCount = s.leafCount := rfl
@[simp] theorem State.acknowledge_freq (s : State) (ack : Bool) : (s.acknowledge ack).freq = s.freq := rfl
@[simp] theorem State.acknowledge_node (s : State) (ack : Bool) : (s.acknowledge ack).node = s.node := rfl
@[simp] theorem State.acknowledge_lut (s : State) (ack : Bool) : (s.acknowledge ack).lut = s.lut := rfl
@[simp] theorem State.acknowledge_dmem (s : State) (ack : Bool) : (s.acknowledge ack).dmem = s.dmem := rfl
@[simp] theorem State.acknowledge_powerOn (s : State) (ack : Bool) : (s.acknowledge ack).powerOn = s.powerOn := rfl
@[simp] theorem State.acknowledge_draws (s : State) (ack : Bool) : (s.acknowledge ack).draws = s.draws := rfl
@[simp] theorem State.acknowledge_events (s : State) (ack : Bool) : (s.acknowledge ack).events = s.events := rfl
@[simp] theorem State.acknowledge_readData (s : State) (ack : Bool) : (s.acknowledge ack).readData = s.readData := rfl

/-! ### State.loseTree -/

@[simp] theorem State.loseTree_cfg (s : State) : s.loseTree.cfg = s.cfg := rfl
@[simp] theorem State.loseTree_phase (s : State) : s.loseTree.phase = s.phase := rfl
@[simp] theorem State.loseTree_irqEn (s : State) : s.loseTree.irqEn = s.irqEn := rfl
@[simp] theorem State.loseTree_done (s : State) : s.loseTree.done = s.done := rfl
@[simp] theorem State.loseTree_treeValid (s : State) : s.loseTree.treeValid = false := rfl
@[simp] theorem State.loseTree_lutValid (s : State) : s.loseTree.lutValid = false := rfl
@[simp] theorem State.loseTree_overrun (s : State) : s.loseTree.overrun = s.overrun := rfl
@[simp] theorem State.loseTree_errCode (s : State) : s.loseTree.errCode = s.errCode := rfl
@[simp] theorem State.loseTree_errSub (s : State) : s.loseTree.errSub = s.errSub := rfl
@[simp] theorem State.loseTree_errInfo (s : State) : s.loseTree.errInfo = s.errInfo := rfl
@[simp] theorem State.loseTree_srcAddr (s : State) : s.loseTree.srcAddr = s.srcAddr := rfl
@[simp] theorem State.loseTree_srcLen (s : State) : s.loseTree.srcLen = s.srcLen := rfl
@[simp] theorem State.loseTree_dstAddr (s : State) : s.loseTree.dstAddr = s.dstAddr := rfl
@[simp] theorem State.loseTree_dstCap (s : State) : s.loseTree.dstCap = s.dstCap := rfl
@[simp] theorem State.loseTree_outLen (s : State) : s.loseTree.outLen = s.outLen := rfl
@[simp] theorem State.loseTree_bitCount (s : State) : s.loseTree.bitCount = s.bitCount := rfl
@[simp] theorem State.loseTree_nodeCount (s : State) : s.loseTree.nodeCount = 0 := rfl
@[simp] theorem State.loseTree_root (s : State) : s.loseTree.root = 0 := rfl
@[simp] theorem State.loseTree_leafCount (s : State) : s.loseTree.leafCount = 0 := rfl
@[simp] theorem State.loseTree_freq (s : State) : s.loseTree.freq = s.freq := rfl
@[simp] theorem State.loseTree_node (s : State) : s.loseTree.node = freeNodes s.draws := rfl
@[simp] theorem State.loseTree_lut (s : State) : s.loseTree.lut = s.lut := rfl
@[simp] theorem State.loseTree_dmem (s : State) : s.loseTree.dmem = s.dmem := rfl
@[simp] theorem State.loseTree_powerOn (s : State) : s.loseTree.powerOn = s.powerOn := rfl
@[simp] theorem State.loseTree_draws (s : State) : s.loseTree.draws = s.draws + 1 := rfl
@[simp] theorem State.loseTree_events (s : State) : s.loseTree.events = s.events := rfl
@[simp] theorem State.loseTree_readData (s : State) : s.loseTree.readData = s.readData := rfl

/-! ### State.clear -/

@[simp] theorem State.clear_cfg (s : State) : s.clear.cfg = s.cfg := rfl
@[simp] theorem State.clear_phase (s : State) : s.clear.phase = .idle := rfl
@[simp] theorem State.clear_irqEn (s : State) : s.clear.irqEn = false := rfl
@[simp] theorem State.clear_done (s : State) : s.clear.done = false := rfl
@[simp] theorem State.clear_treeValid (s : State) : s.clear.treeValid = false := rfl
@[simp] theorem State.clear_lutValid (s : State) : s.clear.lutValid = false := rfl
@[simp] theorem State.clear_overrun (s : State) : s.clear.overrun = false := rfl
@[simp] theorem State.clear_errCode (s : State) : s.clear.errCode = .none := rfl
@[simp] theorem State.clear_errSub (s : State) : s.clear.errSub = 0 := rfl
@[simp] theorem State.clear_errInfo (s : State) : s.clear.errInfo = 0 := rfl
@[simp] theorem State.clear_srcAddr (s : State) : s.clear.srcAddr = 0 := rfl
@[simp] theorem State.clear_srcLen (s : State) : s.clear.srcLen = 0 := rfl
@[simp] theorem State.clear_dstAddr (s : State) : s.clear.dstAddr = 0 := rfl
@[simp] theorem State.clear_dstCap (s : State) : s.clear.dstCap = 0 := rfl
@[simp] theorem State.clear_outLen (s : State) : s.clear.outLen = 0 := rfl
@[simp] theorem State.clear_bitCount (s : State) : s.clear.bitCount = 0 := rfl
@[simp] theorem State.clear_nodeCount (s : State) : s.clear.nodeCount = 0 := rfl
@[simp] theorem State.clear_root (s : State) : s.clear.root = 0 := rfl
@[simp] theorem State.clear_leafCount (s : State) : s.clear.leafCount = 0 := rfl
@[simp] theorem State.clear_freq (s : State) : s.clear.freq = Vector.replicate 256 0 := rfl
@[simp] theorem State.clear_node (s : State) : s.clear.node = freeNodes s.draws := rfl
@[simp] theorem State.clear_lut (s : State) : s.clear.lut = freeLut (s.draws + 1) := rfl
@[simp] theorem State.clear_dmem (s : State) : s.clear.dmem = s.dmem := rfl
@[simp] theorem State.clear_powerOn (s : State) : s.clear.powerOn = s.powerOn := rfl
@[simp] theorem State.clear_draws (s : State) : s.clear.draws = s.draws + 2 := rfl
@[simp] theorem State.clear_events (s : State) : s.clear.events = s.events := rfl
@[simp] theorem State.clear_readData (s : State) : s.clear.readData = s.readData := rfl

end Sys2Proof.Machine
end

