-- ==== Sys2Proof/Laws/Ops.lean ====
section
/-! SUPPORT. What each shared operation can do, said once: the range checks, raising an error, the step. -/

namespace Sys2Proof.Machine

/-! ### Checks -/

/-- No range error is found exactly when both ranges lie in DMEM and share no byte (20_memory.md R90, R91). -/
theorem State.rangeError_eq_none (s : State) : s.rangeError = none ↔ s.rangesFit := by
  unfold State.rangeError State.rangesFit State.srcInRange State.dstInRange State.overlaps
  by_cases h1 : s.srcAddr.toNat + s.srcLen.toNat ≤ s.cfg.dmemBytes
  · by_cases h2 : s.dstAddr.toNat + s.dstCap.toNat ≤ s.cfg.dmemBytes
    · simp [h1, h2]
      omega
    · simp [h1, h2]
  · simp [h1]

/-- A range error is RANGE or OVERLAP: a pre-check error. -/
theorem State.rangeError_preCheck {s : State} {e : Error} (h : s.rangeError = some e) :
    e.code.isExecution = false := by
  unfold State.rangeError at h
  split at h
  · cases h; rfl
  · split at h
    · cases h; rfl
    · split at h
      · cases h; rfl
      · cases h

/-- The bytes written fit the destination range when they are at most DST_CAP. -/
theorem State.rangesFit.dst {s : State} (h : s.rangesFit) {n : Nat} (hn : n ≤ s.dstCap.toNat) :
    s.dstAddr.toNat + n ≤ s.cfg.dmemBytes := by
  have := h.2.1
  omega

/-- After a passed range check nothing of the destination range is clipped. -/
theorem State.dstClipped_eq {s : State} (h : s.rangesFit) : s.dstClipped = s.dstCap.toNat := by
  have := h.2.1
  unfold State.dstClipped
  omega

/-! ### Raising an error -/

/-- A pre-check error changes the completion state alone (60_exceptions.md R266). -/
theorem State.raise_preCheck (s : State) (e : Error) (h : e.code.isExecution = false) :
    s.raise e = s.preCheckFailed e := by
  simp [State.raise, h, State.complete, State.preCheckFailed]

/-- An execution error loses the destination range (60_exceptions.md R266). -/
theorem State.raise_execution (s : State) (e : Error) (h : e.code.isExecution = true) :
    s.raise e = s.loseDst.complete e 0 := by
  simp [State.raise, h]

/-- An error is reported (60_exceptions.md R264). -/
theorem State.raise_failedWith (s : State) (e : Error) : (s.raise e).failedWith e := by
  unfold State.raise State.failedWith
  split <;> simp

/-- An error leaves every byte outside the destination range as it was (60_exceptions.md R266). -/
theorem State.byteAt_raise (s : State) (e : Error) {a : Nat}
    (h : a < s.dstAddr.toNat ∨ s.dstAddr.toNat + s.dstCap.toNat ≤ a) :
    (s.raise e).byteAt a = s.byteAt a := by
  cases he : e.code.isExecution with
  | false => rw [State.raise_preCheck s e he]; rfl
  | true =>
    rw [State.raise_execution s e he]
    refine State.byteAt_storeFree_outside s (n := s.dstClipped) ?_
    unfold State.dstClipped
    omega

/-- An error keeps the canonical form of DMEM. -/
theorem State.wf_raise (s : State) (e : Error) (h : Mem.wf s.cfg.dmemBytes s.dmem = true) :
    Mem.wf (s.raise e).cfg.dmemBytes (s.raise e).dmem = true := by
  cases he : e.code.isExecution with
  | false => rw [State.raise_preCheck s e he]; exact h
  | true => rw [State.raise_execution s e he]; exact State.wf_loseDst s h

/-! ### Resets -/

/-- Clearing the registers keeps every byte of DMEM (70_reset_and_hazards.md R302). -/
@[simp] theorem State.byteAt_clear (s : State) (a : Nat) : s.clear.byteAt a = s.byteAt a := by
  simp only [State.byteAt, State.clear_dmem, State.clear_powerOn]

/-- A soft reset of an idle engine, or of a command with no destination, aborts nothing (R302). -/
theorem State.abort_none {s : State}
    (h : s.phase = .idle ∨ ∃ w, s.phase = .busy w ∧ hasDestination w = false) : s.abort = s := by
  rcases h with h | ⟨w, h, hw⟩
  · simp only [State.abort, h]
  · simp [State.abort, h, hw]

/-- A soft reset of a command with a destination loses that destination (R303). -/
theorem State.abort_running {s : State} {w : Word} (h : s.phase = .busy w)
    (hw : hasDestination w = true) : s.abort = s.loseDst := by
  simp [State.abort, h, hw]

/-- A byte of a lost destination is a free value (R266, R303). -/
theorem State.byteAt_loseDst_inside (s : State) {j : Nat} (h : j < s.dstClipped) :
    s.loseDst.byteAt (s.dstAddr.toNat + j) = Config.freeByte s.draws j := by
  have hs := State.byteAt_store_inside s (a := s.dstAddr.toNat) (i := j)
    (bs := s.freeBytes s.dstClipped) (by simpa using h)
  have he : s.loseDst.byteAt (s.dstAddr.toNat + j) =
      (s.store s.dstAddr.toNat (s.freeBytes s.dstClipped)).byteAt (s.dstAddr.toNat + j) := rfl
  rw [he, hs]
  simp [State.freeBytes]

/-- A lost destination leaves the other bytes as they were (R266, R303). -/
theorem State.byteAt_loseDst_outside (s : State) {a : Nat}
    (h : a < s.dstAddr.toNat ∨ s.dstAddr.toNat + s.dstClipped ≤ a) :
    s.loseDst.byteAt a = s.byteAt a :=
  State.byteAt_storeFree_outside s h

/-- A free code is at most MAX_CODE_LEN = 255 bits long (00_scope.md R6, 10_state.md R57). -/
theorem length_freeCode (n i : Nat) : (freeCode n i).length ≤ 255 := by
  have := (Config.freeCodeLen n i).isLt
  simp only [freeCode, List.length_map, List.length_range]
  omega

/-- So is every code of a free LUT. -/
theorem length_codeAt_freeLut (n : Nat) (sym : Symbol) : (codeAt (freeLut n) sym).length ≤ 255 := by
  unfold codeAt freeLut
  rw [Vector.getElem_ofFn]
  exact length_freeCode n _

/-! ### The step -/

/-- With no event due the step is the engine's. -/
theorem step_of_no_event {s : State} (h : s.events = []) : step s = engineStep s := by
  simp [step, blockStep, h]

/-- With an event due the step is that event's. -/
theorem step_of_event {s : State} {e : Event} {rest : List Event} (h : s.events = e :: rest) :
    step s = eventStep e { s with events := rest } := by
  simp [step, blockStep, h]

/-- A busy engine's step runs the decoded command. -/
theorem engineStep_busy {s : State} {w : Word} {i : Instr} (h : s.phase = .busy w)
    (hd : decode w = .ok i) : engineStep s = exec i s := by
  simp [engineStep, complete, h, hd]

/-- All a step can do: an event of the host, or the engine's step. -/
theorem step_cases {s s' : State} (h : step s = .next s') :
    (∃ n off rest, s.events = .hostRead n off :: rest ∧
      s' = { (({ s with events := rest } : State).hostRead n off).2 with
             readData := (({ s with events := rest } : State).hostRead n off).1 }) ∨
    (∃ n off v rest, s.events = .hostWrite n off v :: rest ∧
      s' = ({ s with events := rest } : State).hostWrite n off v) ∨
    (∃ rest, s.events = .resetPulse :: rest ∧ s' = ({ s with events := rest } : State).hardReset) ∨
    (∃ rest, s.events = .engineTurn :: rest ∧ engineStep { s with events := rest } = .next s') ∨
    (s.events = [] ∧ engineStep s = .next s') := by
  cases hev : s.events with
  | nil =>
    rw [step_of_no_event hev] at h
    exact .inr (.inr (.inr (.inr ⟨rfl, h⟩)))
  | cons e rest =>
    rw [step_of_event hev] at h
    cases e with
    | hostRead n off =>
      simp only [eventStep, Host.Outcome.next.injEq] at h
      exact .inl ⟨n, off, rest, rfl, h.symm⟩
    | hostWrite n off v =>
      simp only [eventStep, Host.Outcome.next.injEq] at h
      exact .inr (.inl ⟨n, off, v, rest, rfl, h.symm⟩)
    | resetPulse =>
      simp only [eventStep, Host.Outcome.next.injEq] at h
      exact .inr (.inr (.inl ⟨rest, rfl, h.symm⟩))
    | engineTurn => exact .inr (.inr (.inr (.inl ⟨rest, rfl, h⟩)))

/-- All the engine's step can do: nothing while idle, a command, or ILLEGAL_CMD. -/
theorem engineStep_cases {s s' : State} (h : engineStep s = .next s') :
    (s.phase = .idle ∧ s' = s) ∨
    (∃ w i, s.phase = .busy w ∧ decode w = .ok i ∧ exec i s = .next s') ∨
    (∃ w r, s.phase = .busy w ∧ decode w = .error r ∧ s' = s.preCheckFailed (illegalError w)) := by
  unfold engineStep at h
  split at h
  · rename_i hp
    simp only [Host.Outcome.next.injEq] at h
    exact .inl ⟨hp, h.symm⟩
  · rename_i w hp
    unfold complete at h
    split at h
    · rename_i i hd
      exact .inr (.inl ⟨w, i, hp, hd, h⟩)
    · rename_i r hd
      simp only [Host.Outcome.next.injEq] at h
      rw [State.raise_preCheck s (illegalError w) rfl] at h
      exact .inr (.inr ⟨w, r, hp, hd, h.symm⟩)

/-- The low `n` bytes of a word, as a number. -/
theorem toNat_lowBytes (n : Nat) (v : Word) (h : n ≤ 4) : (lowBytes n v).toNat = v.toNat % 256 ^ n := by
  have hp : (2 : Nat) ^ (8 * n) = 256 ^ n := by rw [Nat.pow_mul]
  have hle : (256 : Nat) ^ n ≤ 256 ^ 4 := Nat.pow_le_pow_right (by decide) h
  have hmod : (2 ^ (8 * n) - 1) % 2 ^ 32 = 2 ^ (8 * n) - 1 := Nat.mod_eq_of_lt (by omega)
  rw [lowBytes, BitVec.toNat_and, BitVec.toNat_ofNat, hmod, Nat.and_two_pow_sub_one_eq_mod, hp]

/-- A host read changes the draws alone (20_memory.md R98). -/
theorem State.hostRead_state (s : State) (n : Size) (off : Offset) :
    (s.hostRead n off).2 = s ∨ (s.hostRead n off).2 = { s with draws := s.draws + 1 } := by
  unfold State.hostRead
  split
  · exact .inl rfl
  · split
    · unfold State.readRegBusy
      split
      · exact .inr rfl
      · split
        · exact .inr rfl
        · exact .inl rfl
    · exact .inl rfl
  · exact .inl rfl
  · split
    · exact .inr rfl
    · split
      · exact .inr rfl
      · split
        · exact .inl rfl
        · exact .inr rfl
  · split
    · exact .inr rfl
    · exact .inl rfl
  · split
    · exact .inr rfl
    · exact .inl rfl

end Sys2Proof.Machine
end

