-- ==== Sys2Proof/Laws/PerInstr.lean ====
section
/-! SUPPORT. Statements made per command, about the command as syntax. -/

namespace Sys2Proof.Laws.Encoding

/-- The command is well formed, its word is legal, and the word decodes to it, read as a word or as a row of the opcode table. -/
def Statement (i : Instr) : Prop :=
  i.wellFormed = true ∧ legalWord (encode i) = true ∧ decode (encode i) = .ok i ∧
    decodeTableWord 32 (encode i).toNat = some i

theorem build : Statement .build := by unfold Statement; decide

theorem genlut : Statement .genlut := by unfold Statement; decide

theorem encode : Statement .encode := by unfold Statement; decide

theorem decode : Statement .decode := by unfold Statement; decide

theorem serialize : Statement .serialize := by unfold Statement; decide

theorem deserialize : Statement .deserialize := by unfold Statement; decide

end Sys2Proof.Laws.Encoding
end

