-- ==== Sys2Proof/Laws/Tree.lean ====
section
/-! SUPPORT. What the shared walk does on a tree that NODE holds, and the size of trees. -/

namespace Sys2Proof.Machine

/-! ### Small lemmas -/

@[simp] theorem Tree.idx_leaf (i : NodeIdx) (sym : Symbol) (w : Weight) : (Tree.leaf i sym w).idx = i := rfl

@[simp] theorem Tree.idx_node (i : NodeIdx) (w : Weight) (l r : Tree) : (Tree.node i w l r).idx = i := rfl

@[simp] theorem record_leaf (sym : Symbol) (w : Weight) : record (.leaf sym w) = [0x01#8, sym] := rfl

@[simp] theorem record_internal (w : Weight) (l r : NodeIdx) : record (.internal w l r) = [0x00#8] := rfl

/-! ### Counting -/

theorem Tree.indices_ne_nil (T : Tree) : T.indices ≠ [] := by
  cases T <;> simp [Tree.indices]

/-- The records of a shape are its bytes (30_encoding.md R147). -/
theorem Shape.flatten_recordList (sh : Shape) : sh.recordList.flatten = sh.records := by
  induction sh with
  | leaf sym => rfl
  | node l r hl hr => simp [Shape.recordList, Shape.records, hl, hr]

/-- There is one record per node. -/
theorem Shape.length_recordList (sh : Shape) : sh.recordList.length = sh.size := by
  induction sh with
  | leaf sym => rfl
  | node l r hl hr => simp [Shape.recordList, Shape.size, hl, hr]; omega

/-- A strict binary tree of L leaves has 2L - 1 nodes. -/
theorem Tree.length_indices (T : Tree) : T.indices.length + 1 = 2 * T.symbols.length := by
  induction T with
  | leaf => simp [Tree.indices, Tree.symbols]
  | node i w l r ihl ihr => simp only [Tree.indices, Tree.symbols, List.length_cons, List.length_append]; omega

theorem Tree.idx_mem_indices (T : Tree) : T.idx.toNat ∈ T.indices := by
  cases T <;> simp [Tree.indices]

theorem Tree.shape_symbols (T : Tree) : T.shape.symbols = T.symbols := by
  induction T with
  | leaf => rfl
  | node i w l r ihl ihr => simp [Tree.shape, Shape.symbols, Tree.symbols, ihl, ihr]

theorem Tree.shape_size (T : Tree) : T.shape.size = T.indices.length := by
  induction T with
  | leaf => rfl
  | node i w l r ihl ihr =>
    simp only [Tree.shape, Shape.size, Tree.indices, List.length_cons, List.length_append, ihl, ihr]
    omega

/-- The depth of a leaf is less than the number of leaves. -/
theorem Tree.path_length_lt (T : Tree) : ∀ p ∈ T.paths, p.2.length < T.symbols.length := by
  induction T with
  | leaf => simp [Tree.paths, Tree.symbols]
  | node i w l r ihl ihr =>
    have hl : 0 < l.symbols.length := by have := l.length_indices; omega
    have hr : 0 < r.symbols.length := by have := r.length_indices; omega
    intro p hp
    simp only [Tree.paths, List.mem_append, List.mem_map] at hp
    simp only [Tree.symbols, List.length_append]
    rcases hp with ⟨q, hq, rfl⟩ | ⟨q, hq, rfl⟩
    · have := ihl q hq
      simp only [List.length_cons]
      omega
    · have := ihr q hq
      simp only [List.length_cons]
      omega

@[simp] theorem isLeafEntry_leaf (sym : Symbol) (w : Weight) : isLeafEntry (some (.leaf sym w)) = true := rfl

@[simp] theorem isLeafEntry_internal (w : Weight) (l r : NodeIdx) :
    isLeafEntry (some (.internal w l r)) = false := rfl

/-- The Leaf entries among the indices of a tree held by the table are its leaves. -/
theorem Tree.countP_leaf_indices {t : Vector Node 511} (T : Tree) (h : T.heldBy t) :
    (T.indices.countP fun i => isLeafEntry t[i]?) = T.symbols.length := by
  induction T with
  | leaf i sym w =>
    have hi : t[i.toNat]? = some (.leaf sym w) := h
    simp [Tree.indices, Tree.symbols, hi]
  | node i w l r hl hr =>
    have hi : t[i.toNat]? = some (.internal w l.idx r.idx) := h.1
    simp [Tree.indices, Tree.symbols, List.countP_append, hi, hl h.2.1, hr h.2.2]

/-- So NODE[0..NODE_COUNT-1] has LEAF_COUNT Leaf entries (10_state.md R56, item 4). -/
theorem State.holdsTree.leafEntries_eq {s : State} {T : Tree} (h : s.holdsTree T) :
    leafEntries s.node s.nodeCount.toNat = s.leafCount.toNat := by
  unfold leafEntries
  rw [← h.2.2.1.countP_eq, T.countP_leaf_indices h.2.1, h.2.2.2.2]

/-- What the state holds of a tree is not the empty tree. -/
theorem State.holdsTree.nodeCount_eq {s : State} {T : Tree} (h : s.holdsTree T) :
    T.indices.length = s.nodeCount.toNat := by
  simpa using h.2.2.1.length_eq

theorem State.holdsTree.nodeCount_ne_zero {s : State} {T : Tree} (h : s.holdsTree T) :
    s.nodeCount ≠ 0 := by
  intro h0
  have := h.nodeCount_eq
  rw [h0] at this
  exact T.indices_ne_nil (List.length_eq_zero_iff.1 (by simpa using this))

/-! ### The walk -/

/-- The visits of a tree met with branches `c` behind it, in pre-order. -/
def Tree.visitsFrom : Tree → Code → List Visit
  | .leaf i sym w, c => [⟨i, .leaf sym w, c⟩]
  | .node i w l r, c =>
    ⟨i, .internal w l.idx r.idx, c⟩ :: (l.visitsFrom (c ++ [false]) ++ r.visitsFrom (c ++ [true]))

theorem visits_nil (t : Vector Node 511) (f : Nat) : visits t f [] = some [] := by
  cases f <;> rfl

/-- The walk meets a tree that NODE holds in pre-order, and then what else is on the stack. -/
theorem visits_heldBy {t : Vector Node 511} (T : Tree) (h : T.heldBy t) (f : Nat) (c : Code)
    (stack : List (NodeIdx × Code)) :
    visits t (T.indices.length + f) ((T.idx, c) :: stack) =
      (visits t f stack).map (T.visitsFrom c ++ ·) := by
  induction T generalizing f c stack with
  | leaf i sym w =>
    have e : nodeAt t i = some (.leaf sym w) := h
    rw [show (Tree.leaf i sym w).indices.length + f = f + 1 by simp [Tree.indices]; omega]
    simp only [Tree.idx_leaf, visits, e, Tree.visitsFrom, List.cons_append, List.nil_append]
  | node i w l r ihl ihr =>
    obtain ⟨e, hl, hr⟩ := h
    rw [show (Tree.node i w l r).indices.length + f = l.indices.length + (r.indices.length + f) + 1 by
      simp only [Tree.indices, List.length_cons, List.length_append]; omega]
    simp only [Tree.idx_node, visits, e, Tree.visitsFrom]
    rw [ihl hl, ihr hr]
    simp [Option.map_map, Function.comp_def, List.append_assoc]

/-- The walk over the current tree is its pre-order. -/
theorem State.treeVisits_holdsTree {s : State} {T : Tree} (h : s.holdsTree T) :
    s.treeVisits = some (T.visitsFrom []) := by
  have hn := h.nodeCount_eq
  have hlt : s.nodeCount.toNat < 2 ^ 9 := s.nodeCount.isLt
  rw [State.treeVisits, if_neg h.nodeCount_ne_zero, ← h.1,
    show 511 = T.indices.length + (511 - T.indices.length) by omega, visits_heldBy T h.2.1,
    visits_nil]
  simp

/-- The walk over the empty tree meets no node. -/
theorem State.treeVisits_emptyTree {s : State} (h : s.emptyTree) : s.treeVisits = some [] := by
  simp [State.treeVisits, h.1]

/-- The records of the visited nodes are those of the shape. -/
theorem Tree.records_visitsFrom (T : Tree) (c : Code) :
    ((T.visitsFrom c).flatMap fun v => record v.node) = T.shape.records := by
  induction T generalizing c with
  | leaf => simp [Tree.visitsFrom, Tree.shape, Shape.records]
  | node i w l r ihl ihr =>
    simp [Tree.visitsFrom, Tree.shape, Shape.records, ihl, ihr, List.flatMap_append]

/-- The bytes SERIALIZE assembles are the artifact of the tree's shape. -/
theorem artifact_eq_artifactOf (T : Tree) (b : Nat) (payload : List Byte) :
    artifact T.indices.length (T.visitsFrom []) b payload = artifactOf (some T.shape) b payload := by
  simp [artifact, artifactOf, formatVersion, T.records_visitsFrom, Shape.sizeOf, Shape.recordsOf,
    T.shape_size]

/-! ### Following a code -/

/-- Walking the branches to a leaf emits its symbol and starts over at the root. -/
theorem walkBits_path {t : Vector Node 511} {root : NodeIdx} (T : Tree) (hT : T.heldBy t)
    {sym : Symbol} {p : Code} (hp : (sym, p) ∈ T.paths) (hne : p ≠ []) (bits : List Bool)
    (j start : Nat) :
    walkBits t root (p ++ bits) j T.idx start =
      (walkBits t root bits (j + p.length) root (j + p.length)).map
        (fun w => { w with out := sym :: w.out }) := by
  induction T generalizing p j start with
  | leaf => simp_all [Tree.paths]
  | node i w l r ihl ihr =>
    obtain ⟨e, hl, hr⟩ := hT
    simp only [Tree.paths, List.mem_append, List.mem_map] at hp
    have key : ∀ (b : Bool) (T' : Tree), T'.heldBy t → T'.idx = childOn b l.idx r.idx →
        (∀ {p : Code}, (sym, p) ∈ T'.paths → p ≠ [] → ∀ j start,
          walkBits t root (p ++ bits) j T'.idx start =
            (walkBits t root bits (j + p.length) root (j + p.length)).map
              (fun w => { w with out := sym :: w.out })) →
        ∀ q, (sym, q) ∈ T'.paths →
          walkBits t root (b :: (q ++ bits)) j i start =
            (walkBits t root bits (j + (b :: q).length) root (j + (b :: q).length)).map
              (fun w => { w with out := sym :: w.out }) := by
      intro b T' hT' hidx ih q hq
      simp only [walkBits, e, ← hidx]
      cases T' with
      | leaf i' a w' =>
        obtain ⟨rfl, rfl⟩ : sym = a ∧ q = [] := by simpa [Tree.paths] using hq
        have e' : nodeAt t i' = some (.leaf sym w') := hT'
        simp [e']
      | node i' w' l' r' =>
        have hq0 : q ≠ [] := by
          rintro rfl
          simp [Tree.paths] at hq
        have e' : nodeAt t i' = some (.internal w' l'.idx r'.idx) := hT'.1
        simp only [Tree.idx_node, e']
        have := ih hq hq0 (j + 1) start
        simp only [Tree.idx_node] at this
        rw [this, List.length_cons, show j + 1 + q.length = j + (q.length + 1) by omega]
    rcases hp with ⟨q, hq, h⟩ | ⟨q, hq, h⟩
    · obtain ⟨rfl, rfl⟩ : q.1 = sym ∧ false :: q.2 = p := by simpa using h
      exact key false l hl rfl (fun hp hne j start => ihl hl hp hne j start) q.2 hq
    · obtain ⟨rfl, rfl⟩ : q.1 = sym ∧ true :: q.2 = p := by simpa using h
      exact key true r hr rfl (fun hp hne j start => ihr hr hp hne j start) q.2 hq

end Sys2Proof.Machine
end

