-- ==== Sys2Proof/Tests/Slice0.lean ====
section
/-! SUPPORT. The model's own tests: the WellFormed smoke, command words bit by bit, one step per command on the
vectors of 95_test_vectors.md (cited as V<n>), and for every obligation with hypotheses a witness that meets them. -/

namespace Sys2Proof.Tests

open Sys2Proof Sys2Proof.Machine

-- One theorem at a time: many kernel evaluations side by side take too many threads.
set_option Elab.async false

/-! ### Helpers -/

/-- What a next state is asked for. -/
def gives (o : Host.Outcome State Fault Refusal) (p : State → Bool) : Bool :=
  match o with
  | .next t => p t
  | .fault _ => false
  | .refused _ => false

theorem exists_next {o : Host.Outcome State Fault Refusal} {p : State → Bool} (h : gives o p = true) :
    ∃ t : State, o = .next t ∧ p t = true := by
  cases o with
  | next t => exact ⟨t, rfl, h⟩
  | fault r => cases h
  | refused r => cases h

theorem exists_next_any {o : Host.Outcome State Fault Refusal} (h : gives o (fun _ => true) = true) :
    ∃ t : State, o = .next t :=
  (exists_next h).imp fun _ ht => ht.1

/-- The state after reset with plain NODE and LUT contents, so that the kernel can evaluate a step. -/
def base : State :=
  { State.reset with node := Vector.replicate 511 (.leaf 0x00#8 0#40), lut := Vector.replicate 256 [] }

/-- DMEM holding `bytes` at 0 and the operands of a data command:
source (0, their number), destination (0x100, cap), and BITCOUNT. -/
def data (s : State) (bytes : List Byte) (cap bits : Word) : State :=
  { s with dmem := Mem.cellsFrom 0 bytes, srcAddr := 0#32, srcLen := BitVec.ofNat 32 bytes.length,
           dstAddr := 0x100#32, dstCap := cap, bitCount := bits }

/-- A table of counts. -/
def freqOf (counts : List (Nat × Word)) : Vector Word 256 :=
  counts.foldl (fun t c => t.setIfInBounds c.1 c.2) (Vector.replicate 256 0#32)

/-- The tree and the code table of V1 ("aaab"), as BUILD and GENLUT leave them. -/
def two : State :=
  { base with
      node := writeNodes base.node
        [.leaf 0x61#8 3#40, .leaf 0x62#8 1#40, .internal 4#40 0#9 1#9]
      nodeCount := 3#9, root := 2#9, leafCount := 2#9, treeValid := true, lutValid := true
      lut := (base.lut.set 0x61 [false]).set 0x62 [true] }

/-- The tree of V1. -/
def twoTree : Tree := .node 2#9 4#40 (.leaf 0#9 0x61#8 3#40) (.leaf 1#9 0x62#8 1#40)

/-- The single-leaf tree of V3 ("zzzz"). -/
def lone : State :=
  { base with node := base.node.set 0 (.leaf 0x7A#8 4#40), nodeCount := 1#9, leafCount := 1#9,
              treeValid := true, lutValid := true, lut := base.lut.set 0x7A [false] }

/-- The tree of V8 ("abracadabra"), as BUILD leaves it. -/
def abra : State :=
  { base with
      node := writeNodes base.node
        [.leaf 0x61#8 5#40, .leaf 0x62#8 2#40, .leaf 0x63#8 1#40, .leaf 0x64#8 1#40, .leaf 0x72#8 2#40,
          .internal 2#40 3#9 2#9, .internal 4#40 4#9 1#9, .internal 6#40 6#9 5#9, .internal 11#40 7#9 0#9]
      nodeCount := 9#9, root := 8#9, leafCount := 5#9, treeValid := true }

/-- The empty tree of V2. -/
def emptyTwo : State := { base with treeValid := true, lutValid := true }

theorem holdsTree_congr {s t : State} {T : Tree} (h : s.sameTree t) (hT : s.holdsTree T) :
    t.holdsTree T := by
  obtain ⟨-, hn, hc, hr, hl⟩ := h
  obtain ⟨h1, h2, h3, h4, h5⟩ := hT
  exact ⟨h1.trans hr.symm, hn ▸ h2, hc ▸ h3, h4, h5.trans (congrArg _ hl.symm)⟩

theorem fits {s : State} (h : s.rangeError = none) : s.rangesFit := (State.rangeError_eq_none s).1 h

theorem two_holdsTree : two.holdsTree twoTree :=
  
  ⟨rfl, ⟨by decide +kernel, show nodeAt two.node 0#9 = some (.leaf 0x61#8 3#40) by decide +kernel,
    show nodeAt two.node 1#9 = some (.leaf 0x62#8 1#40) by decide +kernel⟩, by decide, by decide, rfl⟩

/-- A state whose tree is that of V1 meets the tree invariant. -/
theorem treeInv_of_two {s : State} (h : two.sameTree s) : s.TreeInv :=
  ⟨fun _ => .inr ⟨twoTree, holdsTree_congr h two_holdsTree⟩, fun hf => by
    rw [h.1] at hf
    cases hf⟩

theorem two_lut (sym : Symbol) :
    codeAt two.lut sym = if sym = 0x62#8 then [true] else if sym = 0x61#8 then [false] else [] := by
  have h62 : (98 = sym.toNat) ↔ sym = 0x62#8 :=
    ⟨fun h => BitVec.eq_of_toNat_eq h.symm, fun h => by rw [h]; rfl⟩
  have h61 : (97 = sym.toNat) ↔ sym = 0x61#8 :=
    ⟨fun h => BitVec.eq_of_toNat_eq h.symm, fun h => by rw [h]; rfl⟩
  simp only [codeAt, two, base, Vector.getElem_set, Vector.getElem_replicate, h62, h61]

theorem two_codes (sym : Symbol) : codeAt two.lut sym = twoTree.codeOf sym := by
  rw [two_lut]
  by_cases h62 : sym = 0x62#8
  · subst h62
    decide
  · by_cases h61 : sym = 0x61#8
    · subst h61
      decide
    · have h1 : (0x61#8 == sym) = false := by simpa using fun h => h61 h.symm
      have h2 : (0x62#8 == sym) = false := by simpa using fun h => h62 h.symm
      simp [twoTree, Tree.codeOf, Tree.paths, h61, h62, h1, h2]

theorem two_codesFit : two.CodesFit := by
  intro sym
  rw [two_lut]
  split
  · decide
  · split <;> decide

/-! ### WellFormed smoke -/

/-- Parameters out of range are refused (00_scope.md R7), the bounds are not. -/
theorem test_params_wellFormed :
    ({ dmemBytes := 0 } : Config.Params).wellFormed = false ∧
    ({ dmemBytes := 65537 } : Config.Params).wellFormed = false ∧
    ({ dmemBytes := 1 } : Config.Params).wellFormed = true ∧
    ({ dmemBytes := 65536 } : Config.Params).wellFormed = true := by decide

/-- Words with a wrong opcode or a reserved bit are refused (30_encoding.md R111, R112; V6). -/
theorem test_words_wellFormed :
    legalWord 0x00000000#32 = false ∧ legalWord 0x00000007#32 = false ∧
    legalWord 0x00000101#32 = false ∧ legalWord 0x80000003#32 = false ∧
    legalWord 0x00000001#32 = true ∧ legalWord 0x00000006#32 = true := by decide

/-- A memory out of order, with an address twice, or with one outside DMEM is refused. -/
theorem test_mem_wellFormed :
    Mem.wf 16 [(3, 1#8), (2, 1#8)] = false ∧ Mem.wf 16 [(3, 1#8), (3, 2#8)] = false ∧
    Mem.wf 16 [(16, 1#8)] = false ∧ Mem.wf 16 [(2, 1#8), (15, 2#8)] = true := by decide

/-- Every command is well formed: there is no ill-formed one (30_encoding.md R116). -/
theorem test_instr_wellFormed (i : Instr) : i.wellFormed = true := by cases i <;> rfl

/-! ### Command words, written out from format CMD32 -/

/-- RSVD (24 bits) then OPCODE (8 bits) of each command (R110, R113), and the refusals by name. -/
theorem test_words_bit_by_bit :
    decode (0b000000000000000000000000#24 ++ 0b00000001#8) = .ok .build ∧
    decode (0b000000000000000000000000#24 ++ 0b00000010#8) = .ok .genlut ∧
    decode (0b000000000000000000000000#24 ++ 0b00000011#8) = .ok .encode ∧
    decode (0b000000000000000000000000#24 ++ 0b00000100#8) = .ok .decode ∧
    decode (0b000000000000000000000000#24 ++ 0b00000101#8) = .ok .serialize ∧
    decode (0b000000000000000000000000#24 ++ 0b00000110#8) = .ok .deserialize := ⟨rfl, rfl, rfl, rfl, rfl, rfl⟩

/-- V6: an illegal word is refused by name. -/
theorem test_illegal_words :
    decode 0x00000000#32 = .error (.opcode 0x00#8) ∧ decode 0x00000007#32 = .error (.opcode 0x07#8) ∧
    decode 0x000000FF#32 = .error (.opcode 0xFF#8) ∧
    decode 0x00000101#32 = .error (.reserved 0x000001#24) ∧
    decode 0x80000003#32 = .error (.reserved 0x800000#24) := ⟨rfl, rfl, rfl, rfl, rfl⟩

/-- The table's numbering of bits (spec/opcode_table.json). -/
theorem test_decodeTableWord :
    decodeTableWord 32 0x00000003 = some .encode ∧ decodeTableWord 32 0x00000103 = none ∧
    decodeTableWord 8 0x06 = some .deserialize := by decide

/-- A placed command is the very next step's. -/
theorem test_withFetchWord :
    step (State.reset.withFetchWord 32 0x00000004) =
      .next ((State.reset.withFetchWord 32 0x00000004).preCheckFailed ⟨.noTree, 0#8, 0#32⟩) := rfl

/-! ### One step per command -/

/-- V1: BUILD of "aaab"; the entries past NODE_COUNT stay. -/
theorem test_build_aaab :
    gives (exec .build { base with freq := freqOf [(0x61, 3), (0x62, 1)] }) (fun t =>
      t.node[0]? == some (.leaf 0x61#8 3#40) && t.node[1]? == some (.leaf 0x62#8 1#40) &&
        t.node[2]? == some (.internal 4#40 0#9 1#9) && t.nodeCount == 3#9 && t.root == 2#9 &&
        t.leafCount == 2#9 && t.statusWord == 0x0A#32 && t.outLen == 0#32) = true := by
  decide +kernel

/-- V10, V14: a tie goes to the lower index, the second one extracted is the left child, and a weight uses bit 32. -/
theorem test_build_ties_and_wide_weight :
    gives (exec .build { base with freq := freqOf [(0x61, 1), (0x62, 1), (0x63, 2)] }) (fun t =>
      t.node[3]? == some (.internal 2#40 1#9 0#9) && t.node[4]? == some (.internal 4#40 3#9 2#9)) = true ∧
    gives (exec .build { base with freq := freqOf [(0, 0xFFFFFFFF#32), (1, 0xFFFFFFFF#32)] }) (fun t =>
      t.node[2]? == some (.internal 0x1FFFFFFFE#40 1#9 0#9)) = true := by
  decide +kernel

/-- V8: the codes of "abracadabra", and no code for a symbol that is not in the tree. -/
theorem test_genlut_abra :
    gives (exec .genlut abra) (fun t =>
      codeAt t.lut 0x61#8 == [true] && codeAt t.lut 0x62#8 == [false, false, true] &&
        codeAt t.lut 0x63#8 == [false, true, true] && codeAt t.lut 0x64#8 == [false, true, false] &&
        codeAt t.lut 0x72#8 == [false, false, false] && codeAt t.lut 0x7A#8 == [] &&
        t.lutValid && t.errCodeWord == 0#32) = true := by
  decide +kernel

/-- V3, V16: the fixed code "0" of a lone leaf, and NO_TREE without a tree. -/
theorem test_genlut_lone_and_noTree :
    gives (exec .genlut lone) (fun t => codeAt t.lut 0x7A#8 == [false] && codeAt t.lut 0x00#8 == []) = true ∧
    gives (exec .genlut base) (fun t => t.errCodeWord == 0x0002#32 && t.statusWord == 0x06#32) = true := by
  decide +kernel

/-- V17: nine symbols whose code is "1" pack into FF 80, and an exact fit succeeds. -/
theorem test_encode_packs :
    gives (exec .encode (data two (List.replicate 9 0x62#8) 2#32 0#32)) (fun t =>
      t.bytesAt 0x100 2 == [0xFF#8, 0x80#8] && t.bitCount == 9#32 && t.outLen == 2#32 &&
        t.errCodeWord == 0#32) = true ∧
    gives (exec .encode (data two [0x61#8, 0x61#8, 0x61#8, 0x62#8] 1#32 0#32)) (fun t =>
      t.byteAt 0x100 == 0x10#8 && t.bitCount == 4#32 && t.outLen == 1#32) = true := by
  decide +kernel

/-- V17: the unknown symbol is found before the capacity is checked, and CAPACITY reports the bytes required. -/
theorem test_encode_errors :
    gives (exec .encode (data two [0x61#8, 0x62#8, 0x63#8] 0#32 0#32)) (fun t =>
      t.errCodeWord == 0x6310#32 && t.errInfo == 2#32) = true ∧
    gives (exec .encode (data two [0x61#8, 0x61#8, 0x61#8, 0x62#8] 0#32 0#32)) (fun t =>
      t.errCodeWord == 0x0007#32 && t.errInfo == 1#32 && t.bitCount == 0#32) = true := by
  decide +kernel

/-- V8, V18: "abracadabra" fits exactly. -/
theorem test_decode_abra :
    gives (exec .decode (data abra [0x91#8, 0x75#8, 0x22#8] 11#32 23#32)) (fun t =>
      t.bytesAt 0x100 11 == [0x61#8, 0x62#8, 0x72#8, 0x61#8, 0x63#8, 0x61#8, 0x64#8, 0x61#8, 0x62#8, 0x72#8,
        0x61#8] && t.outLen == 11#32 && t.errCodeWord == 0#32) = true := by
  decide +kernel

/-- V18: an unfinished codeword that began at bit 19, before capacity; LENGTH; a lone leaf ignores the bits. -/
theorem test_decode_errors_and_lone :
    gives (exec .decode (data abra [0x91#8, 0x75#8, 0x22#8] 0#32 21#32)) (fun t =>
      t.errCodeWord == 0x0012#32 && t.errInfo == 19#32) = true ∧
    gives (exec .decode (data abra [0x91#8, 0x75#8, 0x22#8] 16#32 25#32)) (fun t =>
      t.errCodeWord == 0x0006#32 && t.errInfo == 4#32) = true ∧
    gives (exec .decode (data lone [0xF0#8] 4#32 4#32)) (fun t =>
      t.bytesAt 0x100 4 == List.replicate 4 0x7A#8) = true := by
  decide +kernel

/-- V1, V19: the artifact of "aaab", with only one payload byte copied. -/
theorem test_serialize_aaab :
    gives (exec .serialize (data two [0x10#8, 0xAA#8, 0xBB#8] 16#32 4#32)) (fun t =>
      t.bytesAt 0x100 9 == [0x01#8, 0x03#8, 0x00#8, 0x01#8, 0x61#8, 0x01#8, 0x62#8, 0x04#8, 0x10#8] &&
        t.outLen == 9#32) = true := by
  decide +kernel

/-- V2, V19: the artifact of the empty tree, and CAPACITY with the length required. -/
theorem test_serialize_empty_and_capacity :
    gives (exec .serialize (data emptyTwo [] 3#32 0#32)) (fun t =>
      t.bytesAt 0x100 3 == [0x01#8, 0x00#8, 0x00#8] && t.outLen == 3#32) = true ∧
    gives (exec .serialize (data two [0x10#8] 8#32 4#32)) (fun t =>
      t.errCodeWord == 0x0007#32 && t.errInfo == 9#32) = true := by
  decide +kernel

/-- V8: the nodes DESERIALIZE loads for "abracadabra", linked through the stack of R247. -/
theorem test_deserialize_abra :
    gives (exec .deserialize (data base [0x01#8, 0x09#8, 0x00#8, 0x00#8, 0x00#8, 0x01#8, 0x72#8, 0x01#8,
        0x62#8, 0x00#8, 0x01#8, 0x64#8, 0x01#8, 0x63#8, 0x01#8, 0x61#8, 0x17#8, 0x91#8, 0x75#8, 0x22#8]
        16#32 0#32)) (fun t =>
      t.node.toList.take 9 == [.internal 0 1 8, .internal 0 2 5, .internal 0 3 4, .leaf 0x72 0,
        .leaf 0x62 0, .internal 0 6 7, .leaf 0x64 0, .leaf 0x63 0, .leaf 0x61 0] &&
        t.nodeCount == 9#9 && t.leafCount == 5#9 && t.root == 0#9 && t.bitCount == 23#32 &&
        t.bytesAt 0x100 3 == [0x91#8, 0x75#8, 0x22#8] && t.statusWord == 0x0A#32) = true := by
  decide +kernel

/-- V4a, V21: NODE_MISMATCH at 7, DUP_SYMBOL at 6, BAD_VARINT at 6. -/
theorem test_deserialize_errors :
    gives (exec .deserialize (data two
        [0x01#8, 0x05#8, 0x00#8, 0x01#8, 0x61#8, 0x01#8, 0x62#8, 0x04#8, 0x10#8] 16#32 0#32)) (fun t =>
      t.errCodeWord == 0x0713#32 && t.errInfo == 7#32 && t.statusWord == 0x06#32 && t.nodeCount == 0#9) =
      true ∧
    gives (exec .deserialize (data two
        [0x01#8, 0x03#8, 0x00#8, 0x01#8, 0x61#8, 0x01#8, 0x61#8, 0x04#8, 0x10#8] 16#32 0#32)) (fun t =>
      t.errCodeWord == 0x0613#32 && t.errInfo == 6#32) = true ∧
    gives (exec .deserialize (data two [0x01#8, 0x00#8, 0xFF#8, 0xFF#8, 0xFF#8, 0xFF#8, 0x10#8] 16#32 0#32))
      (fun t => t.errCodeWord == 0x0313#32 && t.errInfo == 6#32) = true := by
  decide +kernel

/-- V17: RANGE before OVERLAP, no 32-bit wrap, adjacent ranges are fine. -/
theorem test_range_checks :
    ({ two with srcAddr := 0xFFFFFFFF#32, srcLen := 2#32 } : State).rangeError = some ⟨.range, 0#8, 0#32⟩ ∧
    ({ two with dstAddr := 0x10001#32 } : State).rangeError = some ⟨.range, 0#8, 1#32⟩ ∧
    ({ two with srcLen := 4#32, dstAddr := 2#32, dstCap := 4#32 } : State).rangeError =
      some ⟨.overlap, 0#8, 0#32⟩ ∧
    ({ two with srcLen := 4#32, dstAddr := 4#32, dstCap := 4#32 } : State).rangeError = none ∧
    ({ two with dstAddr := 0x10000#32 } : State).rangeError = none := by
  decide +kernel

/-- V20: varints, written and read. -/
theorem test_varints :
    varint 300 = [0xAC#8, 0x02#8] ∧ varint 16384 = [0x80#8, 0x80#8, 0x01#8] ∧
    varint (2 ^ 32 - 1) = [0xFF#8, 0xFF#8, 0xFF#8, 0xFF#8, 0x0F#8] ∧
    readVarint [0x80#8, 0x00#8] 0 = .error ⟨.corruptArtifact, 0x03#8, 1#32⟩ ∧
    readVarint [0x80#8] 0 = .error ⟨.corruptArtifact, 0x01#8, 1#32⟩ ∧
    readVarint [0xFF#8, 0xFF#8, 0xFF#8, 0xFF#8, 0x0F#8] 0 = .ok (2 ^ 32 - 1, 5) := by
  refine ⟨by decide, by decide, by decide, rfl, rfl, rfl⟩

/-! ### The host port and resets -/

/-- V7: identification, reset STATUS, sub-word and reserved reads. -/
theorem test_reads_after_reset :
    (State.reset.hostRead .four 0x000#17).1 = 0x48554646#32 ∧
    (State.reset.hostRead .four 0x010#17).1 = 0#32 ∧ (State.reset.hostRead .one 0x000#17).1 = 0#32 ∧
    (State.reset.hostRead .four 0x2FF0#17).1 = 0#32 ∧
    (State.reset.hostRead .four 0x1000#17).1 = Config.freeWord 2 := ⟨rfl, rfl, rfl, rfl, rfl⟩

/-- V7: little-endian DMEM, and misaligned accesses that do nothing. -/
theorem test_dmem_window :
    ((base.hostWrite .four 0x10000#17 0x11223344#32).hostRead .one 0x10000#17).1 = 0x44#32 ∧
    ((base.hostWrite .four 0x10000#17 0x11223344#32).hostRead .two 0x10002#17).1 = 0x1122#32 ∧
    ((base.hostWrite .four 0x10000#17 0x11223344#32).hostRead .four 0x10002#17).1 = 0#32 ∧
    (base.hostWrite .two 0x10001#17 0xBEEF#32).dmem = [] ∧
    (({ base with cfg := { dmemBytes := 256 } } : State).hostWrite .one 0x10100#17 1#32).dmem = [] := by
  decide +kernel

/-- V1, V8: NODE and LUT words. -/
theorem test_table_windows :
    (two.hostRead .four 0x1000#17).1 = 0x00006101#32 ∧ (two.hostRead .four 0x1024#17).1 = 0x00010000#32 ∧
    (two.hostRead .four 0x58A0#17).1 = 0x80000000#32 ∧
    lutWord [false, false, true] 8 = 0x20000000#32 ∧
    nodeWord (.internal 0x1FFFFFFFE#40 1#9 0#9) 3 = 1#32 := by
  decide +kernel

/-- V22: completion raises irq only when enabled; SRST wins; a write while busy is dropped and sets OVERRUN. -/
theorem test_control :
    ({ two with done := true } : State).irq = false ∧
    (({ two with done := true } : State).hostWrite .four 0x008#17 0x8#32).irq = true ∧
    (({ two with done := true } : State).hostWrite .four 0x008#17 0xC#32).irq = false ∧
    (base.hostWrite .four 0x008#17 0x9#32).irqEn = false ∧
    ((base.issue 1#32).hostWrite .four 0x584#17 9#32).overrun = true ∧
    freqAt ((base.issue 1#32).hostWrite .four 0x584#17 9#32).freq 0x61#8 = 0#32 := by
  decide +kernel

/-- V22: an ENCODE with destination (0x100, 16) aborted by SRST loses those bytes and no other. -/
theorem test_abort :
    ((data two [0x61#8] 16#32 0#32).issue 3#32).softReset.byteAt 0x10F = Config.freeByte 2 15 ∧
    ((data two [0x61#8] 16#32 0#32).issue 3#32).softReset.byteAt 0 = 0x61#8 ∧
    ((data two [0x61#8] 16#32 0#32).issue 3#32).softReset.phase = Phase.idle := ⟨rfl, rfl, rfl⟩

/-- P6: the two orders of a write racing a BUILD, first event only: the engine's turn, or the write. -/
theorem test_race :
    gives (step { base.issue 1#32 with events := [.engineTurn, .hostWrite .four 0x58C#17 7#32] }) (fun t =>
      t.phase == .idle && t.done && !t.overrun) = true ∧
    gives (step { base.issue 1#32 with events := [.hostWrite .four 0x58C#17 7#32, .engineTurn] }) (fun t =>
      t.isBusy && t.overrun && freqAt t.freq 0x63#8 == 0#32) = true := by
  decide +kernel

/-- A host script becomes transactions (30_encoding.md R118, R119). -/
theorem test_script :
    script [.wrf 0x61#8 3#32, .run .build 0] =
      [.hostWrite .four 0x584#17 3#32, .hostWrite .four 0x00C#17 1#32, .engineTurn,
        .hostRead .four 0x010#17] := by
  decide

/-! ### Witnesses: the hypotheses of each obligation, met together -/

/-- The bytes of "aaab". -/
def aaab : List Byte := [0x61#8, 0x61#8, 0x61#8, 0x62#8]

/-- The artifact of V1. -/
def artifact1 : List Byte := [0x01#8, 0x03#8, 0x00#8, 0x01#8, 0x61#8, 0x01#8, 0x62#8, 0x04#8, 0x10#8]

theorem two_lutInv {s : State} (h : two.sameTree s) (hc : two.sameCodes s) : s.LutInv := fun _ =>
  ⟨h.1, .inr ⟨twoTree, holdsTree_congr h two_holdsTree, fun sym => by rw [hc.2]; exact two_codes sym⟩⟩

theorem data_sameTree (bytes : List Byte) (cap bits : Word) : two.sameTree (data two bytes cap bits) :=
  ⟨rfl, rfl, rfl, rfl, rfl⟩

theorem witness_StepRunsDecodedCommand :
    (two.issue 3#32).phase = .busy 3#32 ∧ decode 3#32 = .ok .encode ∧ (two.issue 3#32).events = [] ∧
    ({ two.issue 3#32 with events := [.engineTurn] } : State).events = [.engineTurn] ∧
    ({ two with events := [.hostWrite .four 0x00C#17 1#32] } : State).events = [.hostWrite .four 0x00C#17 1#32] ∧
    ({ two with events := [.hostRead .one 0x1FFFF#17] } : State).events = [.hostRead .one 0x1FFFF#17] ∧
    ({ two with events := [.resetPulse] } : State).events = [.resetPulse] ∧
    two.phase = .idle ∧ two.events = [] := ⟨rfl, rfl, rfl, rfl, rfl, rfl, rfl, rfl, rfl⟩

/-- Words at the borders of the three ways to be illegal. -/
theorem witness_IllegalWordReportsIllegalCmd :
    two.phase = .idle ∧ two.events = [] ∧
    ∀ w ∈ [0x00000000#32, 0x00000007#32, 0x000000FF#32, 0x00000101#32, 0x80000003#32],
      w.extractLsb' 8 24 ≠ 0#24 ∨ w.extractLsb' 0 8 = 0#8 ∨ 7 ≤ (w.extractLsb' 0 8).toNat :=
  ⟨rfl, rfl, by simp⟩

theorem witness_ResetsGiveListedValues :
    (∃ t : State, t = State.reset) ∧ (∃ t : State, t = two.hardReset) ∧ ∃ t : State, t = two.softReset :=
  ⟨⟨_, Eq.refl State.reset⟩, ⟨_, Eq.refl two.hardReset⟩, ⟨_, Eq.refl two.softReset⟩⟩

/-- Idle, busy with a command that has no destination, busy with an illegal word, and busy with an ENCODE:
the first and the last byte of its destination, and the bytes next to them. -/
theorem witness_SoftResetKeepsMemory :
    two.phase = .idle ∧
    ((two.issue 1#32).phase = .busy 1#32 ∧ decode 1#32 = .ok .build) ∧
    ((two.issue 7#32).phase = .busy 7#32 ∧ ∀ i : Instr, decode 7#32 ≠ .ok i) ∧
    (((data two aaab 16#32 0#32).issue 3#32).phase = .busy 3#32 ∧ decode 3#32 = .ok .encode ∧
      usesRanges .encode = true ∧ (0xFF < 0x100 ∨ 0x100 + 16 ≤ 0xFF ∨ 65536 ≤ 0xFF) ∧
      (0x110 < 0x100 ∨ 0x100 + 16 ≤ 0x110 ∨ 65536 ≤ 0x110) ∧
      0 < ((data two aaab 16#32 0#32).issue 3#32).dstCap.toNat ∧
      15 < ((data two aaab 16#32 0#32).issue 3#32).dstCap.toNat ∧
      ((data two aaab 16#32 0#32).issue 3#32).dstAddr.toNat + 15 < 65536) := by
  refine ⟨rfl, ⟨rfl, rfl⟩, ⟨rfl, ?_⟩, rfl, rfl, rfl, by decide, by decide, by decide, by decide, by decide⟩
  intro i
  cases i <;> decide

theorem witness_StepKeepsMemoryForm :
    (data two aaab 16#32 0#32).MemInv ∧ ∃ t : State, step ((data two aaab 16#32 0#32).issue 3#32) = .next t :=
  ⟨⟨by decide, by decide⟩, exists_next_any (by decide +kernel)⟩

theorem witness_StepKeepsBusyReportClear :
    (two.issue 2#32).ReportInv ∧ (two.issue 2#32).isBusy = true ∧ ∃ t : State, step (two.issue 2#32) = .next t :=
  ⟨fun _ => ⟨rfl, rfl, rfl, rfl⟩, rfl, exists_next_any (by decide +kernel)⟩

theorem two_issue_sameTree (w : Word) : two.sameTree (two.issue w) := ⟨rfl, rfl, rfl, rfl, rfl⟩

/-- One step of the tree, the LUT and the code-length invariant: a GENLUT over the tree of V1. -/
theorem witness_StepKeepsTreeInvariants :
    (two.issue 2#32).TreeInv ∧ (two.issue 2#32).LutInv ∧ (two.issue 2#32).CodesFit ∧
      (two.issue 2#32).lutValid = true ∧ ∃ t : State, step (two.issue 2#32) = .next t :=
  ⟨treeInv_of_two (two_issue_sameTree 2#32), two_lutInv (two_issue_sameTree 2#32) ⟨rfl, rfl⟩, two_codesFit,
    rfl, exists_next_any (by decide +kernel)⟩

theorem witness_ValidTreeShape :
    two.TreeInv ∧ two.treeValid = true ∧ two.nodeCount ≠ 0#9 ∧
    (2#9).toNat < two.nodeCount.toNat ∧ nodeAt two.node 2#9 = some (.internal 4#40 0#9 1#9) ∧
    (0#9).toNat < two.nodeCount.toNat ∧ nodeAt two.node 0#9 = some (.leaf 0x61#8 3#40) :=
  ⟨treeInv_of_two ⟨rfl, rfl, rfl, rfl, rfl⟩, rfl, by decide, by decide, by decide +kernel, by decide,
    by decide +kernel⟩

/-- The empty tree, the case of the first clause. -/
theorem witness_ValidTreeShape_empty :
    emptyTwo.TreeInv ∧ emptyTwo.treeValid = true ∧ emptyTwo.nodeCount = 0#9 :=
  ⟨⟨fun _ => .inl ⟨rfl, rfl, rfl⟩, fun h => by cases h⟩, rfl, rfl⟩

/-- Two of the three entries of V1's tree are Leaf entries. -/
theorem test_leafEntries : leafEntries two.node 3 = 2 := by decide +kernel

/-- The single-leaf case of the same statement. -/
theorem witness_ValidTreeShape_lone :
    lone.TreeInv ∧ lone.treeValid = true ∧ lone.nodeCount ≠ 0#9 ∧ lone.nodeCount = 1#9 := by
  refine ⟨⟨fun _ => .inr ⟨.leaf 0#9 0x7A#8 4#40, rfl, ?_, by decide, by decide, rfl⟩, fun h => by cases h⟩,
    rfl, by decide, rfl⟩
  show nodeAt lone.node 0#9 = some (.leaf 0x7A#8 4#40)
  decide +kernel

theorem witness_EveryCommandCompletes : two.TreeInv ∧ emptyTwo.TreeInv ∧ base.TreeInv :=
  ⟨treeInv_of_two ⟨rfl, rfl, rfl, rfl, rfl⟩,
    ⟨fun _ => .inl ⟨rfl, rfl, rfl⟩, (fun h => by cases h)⟩, ⟨(fun h => by cases h), fun _ => ⟨rfl, rfl, rfl⟩⟩⟩

theorem witness_BusyEngineBecomesIdle :
    (two.issue 4#32).TreeInv ∧ (two.issue 4#32).isBusy = true :=
  ⟨treeInv_of_two (two_issue_sameTree 4#32), rfl⟩

/-- Each command completes from one small state. -/
theorem witness_CommandsWriteOnlyTheirOutputs :
    ∀ i : Instr, ∃ t : State, exec i (data two artifact1 16#32 4#32) = .next t := by
  intro i
  cases i <;> exact exists_next_any (by decide +kernel)

theorem witness_PreCheckErrorsChangeNothingElse :
    ∃ t : State, exec .genlut base = .next t ∧
      (decide (t.errCode ≠ .none) && !t.errCode.isExecution) = true := exists_next (by decide +kernel)

/-- An ENCODE and a DESERIALIZE that fail while they run. -/
theorem witness_ExecutionErrorsLoseTheDestination :
    (∃ t : State, exec .encode (data two [0x63#8] 16#32 0#32) = .next t ∧ t.errCode.isExecution = true) ∧
    (∃ t : State, exec .deserialize (data two [] 16#32 0#32) = .next t ∧ t.errCode.isExecution = true) :=
  ⟨exists_next (p := fun t => t.errCode.isExecution) (by decide +kernel),
    exists_next (p := fun t => t.errCode.isExecution) (by decide +kernel)⟩

/-- Each clause one past its border: the flags, a source and a destination one byte too long, ranges that share one byte,
a source one byte short of BITCOUNT. -/
theorem witness_PreChecksComeInOrder :
    base.treeValid = false ∧ base.lutValid = false ∧
    (∀ i : Instr, usesRanges i = true → two.prerequisite i = true) ∧
    65536 < (0xFFFF#32).toNat + (2#32).toNat ∧
    (({ two with srcAddr := 0xFFFF#32, srcLen := 2#32 } : State).cfg.dmemBytes < 0xFFFF + 2) ∧
    (({ two with dstAddr := 0x10000#32, dstCap := 1#32 } : State).cfg.dmemBytes < 0x10000 + 1 ∧
      0 + 0 ≤ ({ two with dstAddr := 0x10000#32, dstCap := 1#32 } : State).cfg.dmemBytes) ∧
    ((0x10#32).toNat < (0x18#32).toNat + (4#32).toNat ∧ (0x18#32).toNat < (0x10#32).toNat + (9#32).toNat) ∧
    ((data two [0x10#8] 16#32 9#32).rangesFit ∧
      (data two [0x10#8] 16#32 9#32).srcLen.toNat < ((data two [0x10#8] 16#32 9#32).bitCount.toNat + 7) / 8) := by
  refine ⟨rfl, rfl, ?_, by decide, by decide, ⟨by decide, by decide⟩, ⟨by decide, by decide⟩,
    fits (by decide +kernel), by decide⟩
  intro i _
  cases i <;> rfl

/-- Three present symbols, so that the leaf, the merge and the weight clauses have a case. -/
theorem witness_Build :
    presentIn (freqOf [(0x61, 1#32), (0x62, 1#32), (0x63, 2#32)]) = [0x61#8, 0x62#8, 0x63#8] := by
  decide +kernel

/-- The table after reset is empty. -/
theorem witness_Build_empty : (presentIn (Vector.replicate 256 0#32)).length = 0 := by
  simp [presentIn, freqAt]

theorem witness_BuildDependsOnFreqAlone :
    base.freq = lone.freq ∧ (∃ t₁ : State, exec .build base = .next t₁) ∧
      ∃ t₂ : State, exec .build lone = .next t₂ :=
  ⟨rfl, ⟨_, rfl⟩, ⟨_, rfl⟩⟩

theorem witness_GenlutWritesPathCodes :
    (two.treeValid = true ∧ two.holdsTree twoTree) ∧ (emptyTwo.treeValid = true ∧ emptyTwo.emptyTree) :=
  ⟨⟨rfl, two_holdsTree⟩, rfl, rfl, rfl, rfl⟩

/-- The hypotheses of both statements on the codes GENLUT writes. -/
theorem witness_GenlutCodes :
    two.treeValid = true ∧ two.holdsTree twoTree ∧ 2 ≤ two.leafCount.toNat ∧ 0x61#8 ∈ twoTree.symbols ∧
      0x62#8 ∈ twoTree.symbols ∧ ∃ t : State, exec .genlut two = .next t :=
  ⟨rfl, two_holdsTree, by decide, by decide, by decide, exists_next_any (by decide +kernel)⟩

/-- An exact fit. -/
theorem witness_EncodePacksCodes :
    (data two aaab 1#32 0#32).lutValid = true ∧ (data two aaab 1#32 0#32).rangesFit ∧
    (∀ b ∈ (data two aaab 1#32 0#32).srcBytes, codeAt (data two aaab 1#32 0#32).lut b ≠ []) ∧
    ceil8 ((data two aaab 1#32 0#32).srcBytes.flatMap (codeAt (data two aaab 1#32 0#32).lut)).length ≤
      (data two aaab 1#32 0#32).dstCap.toNat :=
  ⟨rfl, fits (by decide +kernel), by decide +kernel, by decide +kernel⟩

theorem witness_EncodeReportsFirstUnknownSymbol :
    (data two [0x61#8, 0x63#8, 0x64#8] 0#32 0#32).lutValid = true ∧
    (data two [0x61#8, 0x63#8, 0x64#8] 0#32 0#32).rangesFit ∧
    (data two [0x61#8, 0x63#8, 0x64#8] 0#32 0#32).srcBytes[1]? = some 0x63#8 ∧
    codeAt two.lut 0x63#8 = [] ∧
    ∀ (j : Nat) (c : Byte), j < 1 →
      (data two [0x61#8, 0x63#8, 0x64#8] 0#32 0#32).srcBytes[j]? = some c → codeAt two.lut c ≠ [] := by
  refine ⟨rfl, fits (by decide +kernel), by decide +kernel, by decide +kernel, fun j c hj hc => ?_⟩
  obtain rfl : j = 0 := by omega
  have h0 : (data two [0x61#8, 0x63#8, 0x64#8] 0#32 0#32).srcBytes[0]? = some 0x61#8 := by decide +kernel
  rw [h0] at hc
  obtain rfl : 0x61#8 = c := by simpa using hc
  decide +kernel

/-- One byte short; and an unknown symbol. -/
theorem witness_EncodeChecksCapacityLast :
    (data two aaab 0#32 0#32).lutValid = true ∧ (data two aaab 0#32 0#32).rangesFit ∧
    (∀ b ∈ (data two aaab 0#32 0#32).srcBytes, codeAt (data two aaab 0#32 0#32).lut b ≠ []) ∧
    (data two aaab 0#32 0#32).dstCap.toNat <
      ceil8 ((data two aaab 0#32 0#32).srcBytes.flatMap (codeAt (data two aaab 0#32 0#32).lut)).length ∧
    (data two [0x63#8] 0#32 0#32).lutValid = true ∧ (data two [0x63#8] 0#32 0#32).rangesFit ∧
    ∃ b ∈ (data two [0x63#8] 0#32 0#32).srcBytes, codeAt (data two [0x63#8] 0#32 0#32).lut b = [] :=
  ⟨rfl, fits (by decide +kernel), by decide +kernel, by decide +kernel, rfl, fits (by decide +kernel),
    by decide +kernel⟩

theorem witness_EncodeBitCountFits :
    (data two aaab 1#32 0#32).MemInv ∧ (data two aaab 1#32 0#32).CodesFit ∧
    ∃ t : State, exec .encode (data two aaab 1#32 0#32) = .next t ∧ (t.errCode == .none) = true :=
  ⟨⟨by decide, by decide⟩, two_codesFit, exists_next (by decide +kernel)⟩

/-- V1's stream, an exact fit and one byte too few. -/
theorem witness_DecodeFollowsCodes :
    (data two [0x10#8] 4#32 4#32).treeValid = true ∧ (data two [0x10#8] 4#32 4#32).holdsTree twoTree ∧
    2 ≤ (data two [0x10#8] 4#32 4#32).leafCount.toNat ∧ (data two [0x10#8] 4#32 4#32).rangesFit ∧
    ceil8 (data two [0x10#8] 4#32 4#32).bitCount.toNat ≤ (data two [0x10#8] 4#32 4#32).srcLen.toNat ∧
    (∀ sym ∈ aaab, sym ∈ twoTree.symbols) ∧
    (data two [0x10#8] 4#32 4#32).srcBits 4 = aaab.flatMap twoTree.codeOf ∧
    aaab.length ≤ (data two [0x10#8] 4#32 4#32).dstCap.toNat ∧
    (data two [0x10#8] 3#32 4#32).dstCap.toNat < aaab.length :=
  ⟨rfl, holdsTree_congr (data_sameTree _ _ _) two_holdsTree, by decide, fits (by decide +kernel), by decide,
    by decide, by decide +kernel, by decide, by decide⟩

theorem witness_DecodeRepeatsLoneLeaf :
    (data lone [0xF0#8] 4#32 4#32).treeValid = true ∧ (data lone [0xF0#8] 4#32 4#32).nodeCount = 1#9 ∧
    nodeAt (data lone [0xF0#8] 4#32 4#32).node (data lone [0xF0#8] 4#32 4#32).root =
      some (.leaf 0x7A#8 4#40) ∧
    (data lone [0xF0#8] 4#32 4#32).rangesFit ∧
    ceil8 (data lone [0xF0#8] 4#32 4#32).bitCount.toNat ≤ (data lone [0xF0#8] 4#32 4#32).srcLen.toNat ∧
    (data lone [0xF0#8] 4#32 4#32).bitCount.toNat ≤ (data lone [0xF0#8] 4#32 4#32).dstCap.toNat ∧
    (data lone [0xF0#8] 3#32 4#32).dstCap.toNat < (data lone [0xF0#8] 3#32 4#32).bitCount.toNat :=
  ⟨rfl, rfl, by decide +kernel, fits (by decide +kernel), by decide, by decide, by decide⟩

theorem witness_DecodeOfEmptyTree :
    (data emptyTwo [0x00#8] 16#32 1#32).treeValid = true ∧ (data emptyTwo [0x00#8] 16#32 1#32).nodeCount = 0#9 ∧
    (data emptyTwo [0x00#8] 16#32 1#32).rangesFit ∧
    ceil8 (data emptyTwo [0x00#8] 16#32 1#32).bitCount.toNat ≤ (data emptyTwo [0x00#8] 16#32 1#32).srcLen.toNat ∧
    (data emptyTwo [0x00#8] 16#32 1#32).bitCount ≠ 0#32 ∧ (data emptyTwo [] 16#32 0#32).rangesFit ∧
    (data emptyTwo [] 16#32 0#32).bitCount = 0#32 :=
  ⟨rfl, rfl, fits (by decide +kernel), by decide, by decide, fits (by decide +kernel), rfl⟩

/-- The tree of "abc" with counts 1, 1, 2 (V10): c = "1", a = "01", b = "00". -/
def three : State :=
  { base with
      node := writeNodes base.node
        [.leaf 0x61#8 1#40, .leaf 0x62#8 1#40, .leaf 0x63#8 2#40, .internal 2#40 1#9 0#9, .internal 4#40 3#9 2#9]
      nodeCount := 5#9, root := 4#9, leafCount := 3#9, treeValid := true }

/-- The tree of V10. -/
def threeTree : Tree :=
  .node 4#9 4#40 (.node 3#9 2#40 (.leaf 1#9 0x62#8 1#40) (.leaf 0#9 0x61#8 1#40)) (.leaf 2#9 0x63#8 2#40)

theorem three_holdsTree : three.holdsTree threeTree :=
  ⟨rfl, ⟨by decide +kernel, ⟨by decide +kernel,
      show nodeAt three.node 1#9 = some (.leaf 0x62#8 1#40) by decide +kernel,
      show nodeAt three.node 0#9 = some (.leaf 0x61#8 1#40) by decide +kernel⟩,
    show nodeAt three.node 2#9 = some (.leaf 0x63#8 2#40) by decide +kernel⟩, by decide, by decide, rfl⟩

/-- The two bits "10" end inside the codeword begun at bit 1. -/
theorem witness_DecodeReportsUnfinishedCodeword :
    (data three [0x80#8] 0#32 2#32).treeValid = true ∧ (data three [0x80#8] 0#32 2#32).holdsTree threeTree ∧
    2 ≤ (data three [0x80#8] 0#32 2#32).leafCount.toNat ∧ (data three [0x80#8] 0#32 2#32).rangesFit ∧
    ceil8 (data three [0x80#8] 0#32 2#32).bitCount.toNat ≤ (data three [0x80#8] 0#32 2#32).srcLen.toNat ∧
    (∀ a ∈ [0x63#8], a ∈ threeTree.symbols) ∧ 0x61#8 ∈ threeTree.symbols ∧
    [false] <+: threeTree.codeOf 0x61#8 ∧ [false] ≠ ([] : Code) ∧ [false] ≠ threeTree.codeOf 0x61#8 ∧
    (data three [0x80#8] 0#32 2#32).srcBits 2 = [0x63#8].flatMap threeTree.codeOf ++ [false] :=
  ⟨rfl, holdsTree_congr ⟨rfl, rfl, rfl, rfl, rfl⟩ three_holdsTree, by decide, fits (by decide +kernel), by decide,
    by decide, by decide, by decide, by decide, by decide, by decide +kernel⟩

/-- Two memories that differ in the padding. -/
theorem witness_DecodeReadsOnlyCountedBits :
    (∀ j : Nat, j < 4 → ({ data two [0x10#8] 16#32 4#32 with dmem := [(0, 0x1F#8)] } : State).srcBit j =
      (data two [0x10#8] 16#32 4#32).srcBit j) ∧
    ∃ t : State, exec .decode (data two [0x10#8] 16#32 4#32) = .next t :=
  ⟨by decide +kernel, exists_next_any (by decide +kernel)⟩

/-- The operands a host sets between ENCODE and DECODE: the packed bytes as source. -/
def decodeOperands (t : State) : State :=
  { t with srcAddr := t.dstAddr, srcLen := t.outLen, dstAddr := 0x200#32, dstCap := 16#32 }

theorem witness_DecodeUndoesEncode :
    (data two aaab 16#32 0#32).MemInv ∧ (data two aaab 16#32 0#32).TreeInv ∧ (data two aaab 16#32 0#32).LutInv ∧
    ∃ t : State, exec .encode (data two aaab 16#32 0#32) = .next t ∧ t.errCode = .none ∧
      t.sameTree (decodeOperands t) ∧ t.sameMemory (decodeOperands t) ∧ (decodeOperands t).cfg = t.cfg ∧
      (decodeOperands t).bitCount = t.bitCount ∧ (decodeOperands t).srcAddr = t.dstAddr ∧
      t.outLen.toNat ≤ (decodeOperands t).srcLen.toNat ∧ (decodeOperands t).rangesFit ∧
      (data two aaab 16#32 0#32).srcLen.toNat ≤ (decodeOperands t).dstCap.toNat := by
  refine ⟨⟨by decide, by decide⟩, treeInv_of_two (data_sameTree _ _ _),
    two_lutInv (data_sameTree _ _ _) ⟨rfl, rfl⟩, ?_⟩
  obtain ⟨t, ht, hp⟩ := exists_next (o := exec .encode (data two aaab 16#32 0#32))
    (p := fun t => t.errCode == .none && (decodeOperands t).rangeError == none) (by decide +kernel)
  rw [Bool.and_eq_true, beq_iff_eq, beq_iff_eq] at hp
  exact ⟨t, ht, hp.1, ⟨rfl, rfl, rfl, rfl, rfl⟩, fun _ => rfl, rfl, rfl, rfl, Nat.le_refl _, fits hp.2,
    show 4 ≤ (16#32).toNat by decide⟩

theorem witness_Varints :
    0 < 2 ^ 32 ∧ 2 ^ 32 - 1 < 2 ^ 32 ∧
    readVarint [0x01#8, 0xFF#8, 0xFF#8, 0xFF#8, 0xFF#8, 0x0F#8] 1 = .ok (2 ^ 32 - 1, 6) ∧
    readVarint [0x00#8] 0 = .ok (0, 1) := ⟨by decide, by decide, rfl, rfl⟩

/-- An exact fit, and one byte too few for the length statement. -/
theorem witness_Serialize :
    (data two [0x10#8] 9#32 4#32).treeValid = true ∧ (data two [0x10#8] 9#32 4#32).TreeInv ∧
    (data two [0x10#8] 9#32 4#32).holdsShape (some twoTree.shape) ∧ (data two [0x10#8] 9#32 4#32).rangesFit ∧
    ceil8 (data two [0x10#8] 9#32 4#32).bitCount.toNat ≤ (data two [0x10#8] 9#32 4#32).srcLen.toNat ∧
    (artifactOf (some twoTree.shape) 4 ((data two [0x10#8] 9#32 4#32).bytesAt 0 (ceil8 4))).length ≤
      (data two [0x10#8] 9#32 4#32).dstCap.toNat ∧
    9 = 1 + varintLen 3 + (3 - 2) + 2 * 2 + varintLen 4 + ceil8 4 ∧
    (data two [0x10#8] 8#32 4#32).dstCap.toNat < 9 :=
  ⟨rfl, treeInv_of_two (data_sameTree _ _ _), ⟨twoTree, holdsTree_congr (data_sameTree _ _ _) two_holdsTree, rfl⟩,
    fits (by decide +kernel), by decide, by decide +kernel, by decide, by decide⟩

/-- V1's artifact with an exact fit, and the empty artifact. -/
theorem witness_DeserializeLoadsArtifact :
    (data base artifact1 1#32 0#32).rangesFit ∧ 4 < 2 ^ 32 ∧ Shape.distinct (some twoTree.shape) ∧
    [0x10#8].length = ceil8 4 ∧
    (data base artifact1 1#32 0#32).srcBytes = artifactOf (some twoTree.shape) 4 [0x10#8] ∧
    ceil8 4 ≤ (data base artifact1 1#32 0#32).dstCap.toNat ∧
    (data base [0x01#8, 0x00#8, 0x00#8] 0#32 0#32).rangesFit ∧ Shape.distinct none ∧
    (data base [0x01#8, 0x00#8, 0x00#8] 0#32 0#32).srcBytes = artifactOf none 0 [] :=
  ⟨fits (by decide +kernel), by decide, show twoTree.shape.symbols.Nodup by decide, by decide, by decide +kernel,
    by decide, fits (by decide +kernel), trivial, by decide +kernel⟩

theorem witness_DeserializeAcceptsOnlyArtifacts :
    ∃ t : State, exec .deserialize (data base artifact1 1#32 0#32) = .next t ∧ (t.errCode == .none) = true :=
  exists_next (by decide +kernel)

theorem witness_DeserializeChecksVersion :
    (data base [] 1#32 0#32).rangesFit ∧ (data base [] 1#32 0#32).srcLen = 0#32 ∧
    (data base [0x02#8] 1#32 0#32).rangesFit ∧ (data base [0x02#8] 1#32 0#32).srcLen ≠ 0#32 ∧
    (data base [0x02#8] 1#32 0#32).byteAt 0 ≠ 0x01#8 :=
  ⟨fits (by decide +kernel), rfl, fits (by decide +kernel), by decide, by decide +kernel⟩

/-- NODECOUNT at fault at its first, its second and its fifth byte, and BITCOUNT cut short after the empty tree (V20, V21). -/
theorem witness_DeserializeChecksVersion_varints :
    (∀ bytes ∈ [[0x01#8], [0x01#8, 0x80#8, 0x00#8], [0x01#8, 0xFF#8, 0xFF#8, 0xFF#8, 0xFF#8, 0x10#8],
        [0x01#8, 0x00#8, 0x80#8]],
      (data base bytes 1#32 0#32).rangeError = none ∧ (data base bytes 1#32 0#32).srcLen ≠ 0#32 ∧
      (data base bytes 1#32 0#32).byteAt (data base bytes 1#32 0#32).srcAddr.toNat = 0x01#8 ∧
      (data base bytes 1#32 0#32).srcBytes = bytes) ∧
    varintFails [0x01#8] 1 0 0x01#8 ∧ varintFails [0x01#8, 0x80#8, 0x00#8] 1 1 0x03#8 ∧
    varintFails [0x01#8, 0xFF#8, 0xFF#8, 0xFF#8, 0xFF#8, 0x10#8] 1 4 0x03#8 ∧
    Shape.distinct none ∧
    [0x01#8, 0x00#8, 0x80#8] = [0x01#8] ++ varint (Shape.sizeOf none) ++ Shape.recordsOf none ++ [0x80#8] ∧
    2 + [0x80#8].length = (data base [0x01#8, 0x00#8, 0x80#8] 1#32 0#32).srcLen.toNat ∧
    varintFails [0x01#8, 0x00#8, 0x80#8] 2 1 0x01#8 := by
  refine ⟨by decide +kernel, ⟨by decide, fun j hj => by omega, .inl ⟨rfl, rfl⟩⟩,
    ⟨by decide, fun j hj => ?_, .inr ⟨rfl, 0x00#8, rfl, .inr ⟨by decide, rfl⟩⟩⟩,
    ⟨by decide, fun j hj => ?_, .inr ⟨rfl, 0x10#8, rfl, .inl ⟨rfl, by decide⟩⟩⟩, trivial, by decide, by decide,
    ⟨by decide, fun j hj => ?_, .inl ⟨rfl, rfl⟩⟩⟩
  · obtain rfl : j = 0 := by omega
    exact ⟨0x80#8, rfl, rfl⟩
  · exact ⟨0xFF#8, by interval_cases j <;> rfl, rfl⟩
  · obtain rfl : j = 0 := by omega
    exact ⟨0x80#8, rfl, rfl⟩

/-- A payload one byte short, one byte too long, and one byte beyond DST_CAP. -/
theorem witness_DeserializeChecksPayloadLength :
    ((data base [0x01#8, 0x00#8, 0x05#8] 1#32 0#32).rangesFit ∧
      (data base [0x01#8, 0x00#8, 0x05#8] 1#32 0#32).srcBytes = artifactOf none 5 [] ∧
      3 + ([] : List Byte).length = (data base [0x01#8, 0x00#8, 0x05#8] 1#32 0#32).srcLen.toNat ∧
      ([] : List Byte).length < ceil8 5) ∧
    ((data base [0x01#8, 0x00#8, 0x00#8, 0xFF#8] 1#32 0#32).rangesFit ∧
      (data base [0x01#8, 0x00#8, 0x00#8, 0xFF#8] 1#32 0#32).srcBytes = artifactOf none 0 [0xFF#8] ∧
      3 + [0xFF#8].length = (data base [0x01#8, 0x00#8, 0x00#8, 0xFF#8] 1#32 0#32).srcLen.toNat ∧
      ceil8 0 < [0xFF#8].length) ∧
    ((data base [0x01#8, 0x00#8, 0x05#8, 0x00#8] 0#32 0#32).rangesFit ∧
      (data base [0x01#8, 0x00#8, 0x05#8, 0x00#8] 0#32 0#32).srcBytes = artifactOf none 5 [0x00#8] ∧
      [0x00#8].length = ceil8 5 ∧
      (data base [0x01#8, 0x00#8, 0x05#8, 0x00#8] 0#32 0#32).dstCap.toNat < ceil8 5) :=
  ⟨⟨fits (by decide +kernel), by decide +kernel, by decide, by decide⟩,
    ⟨fits (by decide +kernel), by decide +kernel, by decide, by decide⟩,
    ⟨fits (by decide +kernel), by decide +kernel, by decide, by decide⟩⟩

/-- Counts 512 and 511, a lone leaf under a count of 2, and a root of three nodes under a count of 1 (V4, V21). -/
theorem witness_DeserializeChecksNodeCount :
    ((data base [0x01#8, 0x80#8, 0x04#8] 16#32 0#32).rangesFit ∧
      (data base [0x01#8, 0x80#8, 0x04#8] 16#32 0#32).srcBytes = [0x01#8] ++ varint 512 ++ [] ∧ 511 < 512) ∧
    ((data base [0x01#8, 0x02#8, 0x01#8, 0x7A#8] 16#32 0#32).rangesFit ∧
      (data base [0x01#8, 0x02#8, 0x01#8, 0x7A#8] 16#32 0#32).srcBytes =
        [0x01#8] ++ varint 2 ++ ((Shape.leaf 0x7A#8).records ++ []) ∧
      (Shape.leaf 0x7A#8).symbols.Nodup ∧ (Shape.leaf 0x7A#8).size < 2) ∧
    ((data base [0x01#8, 0x01#8, 0x00#8] 16#32 0#32).rangesFit ∧
      (data base [0x01#8, 0x01#8, 0x00#8] 16#32 0#32).srcBytes =
        [0x01#8] ++ varint 1 ++ (twoTree.shape.prefixBytes 1 ++ []) ∧
      twoTree.shape.distinctUpTo 1 ∧ 0 < 1 ∧ 1 < twoTree.shape.size) :=
  ⟨⟨fits (by decide +kernel), by decide +kernel, by decide⟩,
    ⟨fits (by decide +kernel), by decide +kernel, by decide, by decide⟩,
    ⟨fits (by decide +kernel), by decide +kernel,
      show ((twoTree.shape.recordList.take 1).filter fun r => r.length == 2).Nodup by decide, by decide, by decide⟩⟩

/-- After the first record and a leaf of V1's tree (V21): no byte, a tag 0x02, a Leaf tag alone, and the symbol 0x61 again;
and no byte where the very first record is due. -/
theorem witness_DeserializeChecksNodeCount_records :
    (∀ more ∈ [[], [0x02#8], [0x01#8], [0x01#8, 0x61#8]],
      (data base ([0x01#8, 0x03#8, 0x00#8, 0x01#8, 0x61#8] ++ more) 16#32 0#32).rangeError = none ∧
      (data base ([0x01#8, 0x03#8, 0x00#8, 0x01#8, 0x61#8] ++ more) 16#32 0#32).srcBytes =
        [0x01#8] ++ varint 3 ++ (twoTree.shape.prefixBytes 2 ++ more)) ∧
    2 < 3 ∧ 2 < twoTree.shape.size ∧ twoTree.shape.distinctUpTo 2 ∧ 0x02#8 ≠ 0x00#8 ∧ 0x02#8 ≠ 0x01#8 ∧
    [0x01#8, 0x61#8] ∈ twoTree.shape.recordList.take 2 ∧
    ((data base [0x01#8, 0xFF#8, 0x03#8] 16#32 0#32).rangesFit ∧
      (data base [0x01#8, 0xFF#8, 0x03#8] 16#32 0#32).srcBytes =
        [0x01#8] ++ varint 511 ++ (twoTree.shape.prefixBytes 0 ++ []) ∧
      0 < twoTree.shape.size ∧ twoTree.shape.distinctUpTo 0) :=
  ⟨by decide +kernel, by decide, by decide,
    show ((twoTree.shape.recordList.take 2).filter fun r => r.length == 2).Nodup by decide, by decide, by decide,
    by decide, fits (by decide +kernel), by decide +kernel, by decide,
    show ((twoTree.shape.recordList.take 0).filter fun r => r.length == 2).Nodup by decide⟩

theorem witness_DeserializeUndoesSerialize :
    (data two [0x10#8] 16#32 4#32).treeValid = true ∧
    (data two [0x10#8] 16#32 4#32).holdsShape (some twoTree.shape) ∧
    ∃ t : State, exec .serialize (data two [0x10#8] 16#32 4#32) = .next t ∧ t.errCode = .none ∧
      t.sameMemory (decodeOperands t) ∧ (decodeOperands t).cfg = t.cfg ∧
      (decodeOperands t).srcAddr = t.dstAddr ∧ (decodeOperands t).srcLen = t.outLen ∧
      (decodeOperands t).rangesFit ∧
      ceil8 (data two [0x10#8] 16#32 4#32).bitCount.toNat ≤ (decodeOperands t).dstCap.toNat := by
  refine ⟨rfl, ⟨twoTree, holdsTree_congr (data_sameTree _ _ _) two_holdsTree, rfl⟩, ?_⟩
  obtain ⟨t, ht, hp⟩ := exists_next (o := exec .serialize (data two [0x10#8] 16#32 4#32))
    (p := fun t => t.errCode == .none && (decodeOperands t).rangeError == none) (by decide +kernel)
  rw [Bool.and_eq_true, beq_iff_eq, beq_iff_eq] at hp
  exact ⟨t, ht, hp.1, fun _ => rfl, rfl, rfl, rfl, fits hp.2, show ceil8 4 ≤ (16#32).toNat by decide⟩

/-- The phases the statements on the host port ask for, and both borders of a FREQ symbol and of the CTRL bits. -/
theorem witness_HostPort :
    two.phase = .idle ∧ two.isBusy = false ∧ (two.issue 3#32).isBusy = true ∧ 0x00C#17 ≠ 0x008#17 ∧
    (1#32).getLsbD 0 = true ∧ (0xE#32).getLsbD 0 = false ∧
    (0x1000 ≤ (0x1000#17).toNat ∧ (0x7FFF#17).toNat < 0x8000) := by
  decide +kernel

/-- An offset for each clause, at its borders: sub-word, misaligned, the reserved ranges, the slot past NODE[510]. -/
theorem witness_AccessesWithoutATarget :
    ((0x7FFF#17).toNat < 0x8000 ∧ Size.one ≠ .four) ∧ ((0x7FFE#17).toNat < 0x8000 ∧ (0x7FFE#17).toNat % 4 ≠ 0) ∧
    (0x40 ≤ (0x0040#17).toNat ∧ (0x03FC#17).toNat < 0x400) ∧
    (0x800 ≤ (0x0800#17).toNat ∧ (0x0FFC#17).toNat < 0x1000) ∧
    (0x2FF0 ≤ (0x2FF0#17).toNat ∧ (0x3FFC#17).toNat < 0x4000) ∧
    (0x8000 ≤ (0x8000#17).toNat ∧ (0xFFFF#17).toNat < 0x10000) := by
  refine ⟨⟨?_, ?_⟩, ⟨?_, ?_⟩, ⟨?_, ?_⟩, ⟨?_, ?_⟩, ⟨?_, ?_⟩, ?_, ?_⟩ <;> decide +kernel

/-- The last word of DMEM, idle and busy, a misaligned halfword, and an access one byte beyond DMEM_BYTES. -/
theorem witness_DmemWindow :
    two.phase = .idle ∧ (two.issue 3#32).isBusy = true ∧ two.cfg = Config.reference ∧ 0x10000 ≤ (0x1FFFC#17).toNat ∧
    ((0x1FFFC#17).toNat - 0x10000) % Size.four.bytes = 0 ∧
    (0x1FFFC#17).toNat - 0x10000 + Size.four.bytes ≤ Config.reference.dmemBytes ∧
    ((0x10001#17).toNat - 0x10000) % Size.two.bytes ≠ 0 ∧
    256 < (0x10100#17).toNat - 0x10000 + Size.one.bytes := by
  refine ⟨rfl, rfl, rfl, ?_, ?_, ?_, ?_, ?_⟩ <;> decide +kernel

/-- The first and the last NODE entry below NODE_COUNT, the first one from NODE_COUNT on, and the slot past the table. -/
theorem witness_NodeWindow :
    two.phase = .idle ∧ 0 < 4 ∧ 3 < 4 ∧ 0 < two.nodeCount.toNat ∧ 2 < two.nodeCount.toNat ∧
    two.node[0]? = some (.leaf 0x61#8 3#40) ∧ two.node[2]? = some (.internal 4#40 0#9 1#9) ∧
    (3 < 511 ∧ two.nodeCount.toNat ≤ 3) ∧ (510 < 511 ∧ (two.issue 1#32).isBusy = true) ∧ 511 = 511 := by
  decide +kernel

theorem witness_LutWindow :
    two.phase = .idle ∧ two.CodesFit ∧ 0 < 16 ∧ 15 < 16 ∧ (1 ≤ 7 ∧ 7 < 8) ∧ 8 ≤ 15 ∧
      (two.issue 2#32).isBusy = true := ⟨rfl, two_codesFit, by decide, by decide, by decide, by decide, rfl⟩

/-- A dropped write sets OVERRUN, and CLR_OVERRUN, SRST and rst_n each clear it. -/
theorem witness_OverrunChangesOnlyAsStated :
    (∃ t : State, step { two.issue 1#32 with events := [.hostWrite .four 0x00C#17 2#32] } = .next t ∧
      t.overrun = true) ∧
    (∀ e ∈ [Event.hostWrite .four 0x008#17 2#32, .hostWrite .four 0x008#17 1#32, .resetPulse],
      gives (step { two with overrun := true, events := [e] }) (fun t => !t.overrun) = true) :=
  ⟨exists_next (p := fun t => t.overrun) (by decide +kernel), by decide +kernel⟩

/-- A BUILD changes the tree, a GENLUT the LUT, a host write FREQ, with no reset due. -/
theorem witness_TablesChangeOnlyAsStated :
    (∃ t : State, step (two.issue 1#32) = .next t ∧ (t.nodeCount != two.nodeCount) = true) ∧
    (∃ t : State, step (abra.issue 2#32) = .next t ∧
      (codeAt t.lut 0x61#8 != codeAt abra.lut 0x61#8) = true) ∧
    (∃ t : State, step { base with events := [.hostWrite .four 0x7FC#17 9#32] } = .next t ∧
      (freqAt t.freq 0xFF#8 != freqAt base.freq 0xFF#8) = true) ∧
    (∀ rest, (two.issue 1#32).events ≠ .resetPulse :: rest) ∧
    (∀ v rest, v.getLsbD 0 = true → (two.issue 1#32).events ≠ .hostWrite .four 0x008#17 v :: rest) :=
  ⟨exists_next (p := fun t => t.nodeCount != two.nodeCount) (by decide +kernel),
    exists_next (p := fun t => codeAt t.lut 0x61#8 != codeAt abra.lut 0x61#8) (by decide +kernel),
    exists_next (p := fun t => freqAt t.freq 0xFF#8 != freqAt base.freq 0xFF#8) (by decide +kernel),
    (fun rest h => by cases h), (fun v rest _ h => by cases h)⟩

/-- An issue, a completion and a reset of a running command. -/
theorem witness_PhaseChangesOnlyAsStated :
    (∃ t : State, step { two with events := [.hostWrite .four 0x00C#17 1#32] } = .next t ∧
      decide (t.phase ≠ two.phase) = true) ∧
    (∃ t : State, step (two.issue 2#32) = .next t ∧ decide (t.phase ≠ (two.issue 2#32).phase) = true) ∧
    (∃ t : State, step { two.issue 2#32 with events := [.resetPulse] } = .next t ∧
      decide (t.phase ≠ (two.issue 2#32).phase) = true) :=
  ⟨exists_next (p := fun t => decide (t.phase ≠ two.phase)) (by decide +kernel),
    exists_next (p := fun t => decide (t.phase ≠ (two.issue 2#32).phase)) (by decide +kernel),
    exists_next (p := fun t => decide (t.phase ≠ (two.issue 2#32).phase)) (by decide +kernel)⟩

end Sys2Proof.Tests
end

section
/-! The proof of O12: what each agent can do to the state, the codes GENLUT writes, and the invariant. -/

namespace Sys2Proof.Machine

/-! ### What a host write can do -/

/-- A write of CTRL is a soft reset, or it sets and clears control bits (10_state.md R35). -/
theorem State.writeCtrl_cases (s : State) (v : Word) :
    (v.getLsbD 0 = true ∧ s.writeCtrl v = s.softReset) ∨
    (v.getLsbD 0 = false ∧ s.writeCtrl v =
      ({ s with irqEn := v.getLsbD 3, overrun := s.overrun && !v.getLsbD 1 } : State).acknowledge
        (v.getLsbD 2)) := by
  by_cases h : v.getLsbD 0 = true
  · exact .inl ⟨h, if_pos h⟩
  · exact .inr ⟨Bool.eq_false_iff.2 h, if_neg h⟩

/-- All a host write can do: a write of CTRL in any phase, a dropped write while busy (20_memory.md R93), and while
idle a write of another register, of FREQ or of DMEM, or none at all (R83-R88). -/
theorem State.hostWrite_cases (s : State) (n : Size) (off : Offset) (v : Word) :
    (target s.cfg n off = .reg .ctrl ∧ s.hostWrite n off v = s.writeCtrl v) ∨
    (s.isBusy = true ∧ target s.cfg n off ≠ .reg .ctrl ∧
      s.hostWrite n off v = { s with overrun := true }) ∨
    (s.isBusy = false ∧ ∃ r, target s.cfg n off = .reg r ∧ r ≠ .ctrl ∧
      s.hostWrite n off v = s.writeReg r v) ∨
    (s.isBusy = false ∧ ∃ sym, target s.cfg n off = .freq sym ∧
      s.hostWrite n off v = { s with freq := s.freq.set sym.toNat v }) ∨
    (s.isBusy = false ∧ ∃ k, target s.cfg n off = .dmem k ∧
      s.hostWrite n off v = s.store k (bytesOfWord n.bytes v)) ∨
    (s.isBusy = false ∧ s.hostWrite n off v = s) := by
  cases hb : s.isBusy with
  | true =>
    by_cases hc : target s.cfg n off = .reg .ctrl
    · exact .inl ⟨hc, by simp [State.hostWrite, State.hostWriteBusy, hb, hc]⟩
    · exact .inr (.inl ⟨rfl, hc, by simp [State.hostWrite, State.hostWriteBusy, hb, hc]⟩)
  | false =>
    have hw : s.hostWrite n off v = s.hostWriteIdle n off v := by simp [State.hostWrite, hb]
    rw [hw, State.hostWriteIdle]
    cases ht : target s.cfg n off with
    | reg r =>
      by_cases hr : r = .ctrl
      · subst hr
        exact .inl ⟨rfl, rfl⟩
      · exact .inr (.inr (.inl ⟨rfl, r, rfl, hr, rfl⟩))
    | freq sym => exact .inr (.inr (.inr (.inl ⟨rfl, sym, rfl, rfl⟩)))
    | dmem k => exact .inr (.inr (.inr (.inr (.inl ⟨rfl, k, rfl, rfl⟩))))
    | node => exact .inr (.inr (.inr (.inr (.inr ⟨rfl, rfl⟩))))
    | lut => exact .inr (.inr (.inr (.inr (.inr ⟨rfl, rfl⟩))))
    | nothing => exact .inr (.inr (.inr (.inr (.inr ⟨rfl, rfl⟩))))

/-! ### What a command can do -/

/-- GENLUT without a tree is NO_TREE; else it writes the code table of the nodes the walk meets (41_encoder.md R180). -/
theorem execGenlut_cases {s t : State} (h : execGenlut s = .next t) :
    (s.treeValid = false ∧ t = s.raise ⟨.noTree, 0, 0⟩) ∨
    (s.treeValid = true ∧ ∃ vs, s.treeVisits = some vs ∧
      t = ({ s with lut := lutOf vs, lutValid := true } : State).finish 0) := by
  unfold execGenlut at h
  cases hv : s.treeValid with
  | false => exact .inl ⟨rfl, by simpa [hv] using h.symm⟩
  | true =>
    cases hw : s.treeVisits with
    | none => simp [hv, hw] at h
    | some vs => exact .inr ⟨rfl, vs, rfl, by simpa [hv, hw] using h.symm⟩

/-- ENCODE raises an error, or writes the packed codes of the source and their number of bits (41_encoder.md R185-R189). -/
theorem execEncode_cases {s t : State} (h : execEncode s = .next t) :
    (∃ e, t = s.raise e) ∨
    (s.lutValid = true ∧ s.rangesFit ∧ ∃ bits, encodeSymbols s.lut 0 s.srcBytes = .ok bits ∧
      ceil8 bits.length ≤ s.dstCap.toNat ∧
      t = ({ s.storeDst (packBits bits) with bitCount := BitVec.ofNat 32 bits.length } : State).finish
        (ceil8 bits.length)) := by
  unfold execEncode at h
  split at h
  · exact .inl ⟨_, (Host.Outcome.next.inj h).symm⟩
  · next hv =>
    split at h
    · exact .inl ⟨_, (Host.Outcome.next.inj h).symm⟩
    · next hr =>
      split at h
      · exact .inl ⟨_, (Host.Outcome.next.inj h).symm⟩
      · next bits hb =>
        split at h
        · exact .inl ⟨_, (Host.Outcome.next.inj h).symm⟩
        · next hc =>
          exact .inr ⟨by simpa using hv, (State.rangeError_eq_none s).1 hr, bits, hb, Nat.le_of_not_gt hc,
            (Host.Outcome.next.inj h).symm⟩

/-- DECODE raises an error, or writes the decoded symbols (42_decoder.md R210-R217). -/
theorem execDecode_cases {s t : State} (h : execDecode s = .next t) :
    (∃ e, t = s.raise e) ∨
    (s.treeValid = true ∧ s.rangesFit ∧ s.bitBytes ≤ s.srcLen.toNat ∧
      ∃ out, s.decodeBits s.bitCount.toNat = .symbols out ∧ out.length ≤ s.dstCap.toNat ∧
        t = (s.storeDst out).finish out.length) := by
  unfold execDecode at h
  split at h
  · exact .inl ⟨_, (Host.Outcome.next.inj h).symm⟩
  · next hv =>
    split at h
    · exact .inl ⟨_, (Host.Outcome.next.inj h).symm⟩
    · next hr =>
      split at h
      · exact .inl ⟨_, (Host.Outcome.next.inj h).symm⟩
      · next hl =>
        split at h
        · cases h
        · exact .inl ⟨_, (Host.Outcome.next.inj h).symm⟩
        · next out hd =>
          split at h
          · exact .inl ⟨_, (Host.Outcome.next.inj h).symm⟩
          · next hc =>
            exact .inr ⟨by simpa using hv, (State.rangeError_eq_none s).1 hr, Nat.le_of_not_gt hl, out, hd,
              Nat.le_of_not_gt hc, (Host.Outcome.next.inj h).symm⟩

/-- SERIALIZE raises an error, or writes the artifact of the nodes the walk meets (43_container.md R230-R234). -/
theorem execSerialize_cases {s t : State} (h : execSerialize s = .next t) :
    (∃ e, t = s.raise e) ∨
    (s.treeValid = true ∧ s.rangesFit ∧ s.bitBytes ≤ s.srcLen.toNat ∧
      ∃ vs bytes, s.treeVisits = some vs ∧
        bytes = artifact s.nodeCount.toNat vs s.bitCount.toNat (s.bytesAt s.srcAddr.toNat s.bitBytes) ∧
        bytes.length ≤ s.dstCap.toNat ∧ t = (s.storeDst bytes).finish bytes.length) := by
  unfold execSerialize at h
  split at h
  · exact .inl ⟨_, (Host.Outcome.next.inj h).symm⟩
  · next hv =>
    split at h
    · exact .inl ⟨_, (Host.Outcome.next.inj h).symm⟩
    · next hr =>
      split at h
      · exact .inl ⟨_, (Host.Outcome.next.inj h).symm⟩
      · next hl =>
        split at h
        · cases h
        · next vs hw =>
          dsimp only at h
          split at h
          · exact .inl ⟨_, (Host.Outcome.next.inj h).symm⟩
          · next hc =>
            exact .inr ⟨by simpa using hv, (State.rangeError_eq_none s).1 hr, Nat.le_of_not_gt hl, vs, _, hw,
              rfl, Nat.le_of_not_gt hc, (Host.Outcome.next.inj h).symm⟩

/-- DESERIALIZE finds a range error, fails with its tree lost (43_container.md R253), or loads the artifact
(R247-R252). -/
theorem execDeserialize_cases {s t : State} (h : execDeserialize s = .next t) :
    (∃ e, s.rangeError = some e ∧ t = s.raise e) ∨
    (s.rangesFit ∧ ∃ e, t = s.loseTree.raise e) ∨
    (s.rangesFit ∧ ∃ a, parseArtifact s.srcBytes = .ok a ∧ ceil8 a.bitCount ≤ s.dstCap.toNat ∧
      t = ({ s.storeDst (s.bytesAt (s.srcAddr.toNat + a.payloadAt) (ceil8 a.bitCount)) with
              node := writeNodes s.node a.nodes
              nodeCount := BitVec.ofNat 9 a.nodes.length
              root := 0
              leafCount := BitVec.ofNat 9 a.leaves
              bitCount := BitVec.ofNat 32 a.bitCount
              treeValid := true
              lutValid := false } : State).finish (ceil8 a.bitCount)) := by
  unfold execDeserialize at h
  split at h
  · next e he => exact .inl ⟨e, he, (Host.Outcome.next.inj h).symm⟩
  · next hr =>
    have hfit := (State.rangeError_eq_none s).1 hr
    split at h
    · exact .inr (.inl ⟨hfit, _, (Host.Outcome.next.inj h).symm⟩)
    · next a ha =>
      split at h
      · exact .inr (.inl ⟨hfit, _, (Host.Outcome.next.inj h).symm⟩)
      · next hc => exact .inr (.inr ⟨hfit, a, ha, Nat.le_of_not_gt hc, (Host.Outcome.next.inj h).symm⟩)

/-! ### What leaves the code table as it is -/

/-- An error leaves the code table as it is (60_exceptions.md R266). -/
@[simp] theorem State.raise_lut (s : State) (e : Error) : (s.raise e).lut = s.lut := by
  unfold State.raise
  split <;> simp

/-- So does a write of any register but CTRL, whose SRST is a reset. -/
theorem State.writeReg_lut (s : State) {r : Reg} (v : Word) (h : r ≠ .ctrl) :
    (s.writeReg r v).lut = s.lut := by
  cases r with
  | ctrl => exact absurd rfl h
  | _ => rfl

/-- A host read leaves the code table as it is (20_memory.md R98). -/
@[simp] theorem State.hostRead_lut (s : State) (n : Size) (off : Offset) :
    (s.hostRead n off).2.lut = s.lut := by
  rcases s.hostRead_state n off with h | h <;> rw [h]

/-- GENLUT is the only command that writes the code table (20_memory.md R92, 41_encoder.md R180). -/
theorem exec_lut_of_ne_genlut {i : Instr} {s t : State} (hi : i ≠ .genlut) (h : exec i s = .next t) :
    t.lut = s.lut := by
  cases i with
  | build =>
    obtain rfl := Host.Outcome.next.inj h
    simp
  | genlut => exact absurd rfl hi
  | encode => rcases execEncode_cases h with ⟨e, rfl⟩ | ⟨-, -, bits, -, -, rfl⟩ <;> simp
  | decode => rcases execDecode_cases h with ⟨e, rfl⟩ | ⟨-, -, -, out, -, -, rfl⟩ <;> simp
  | serialize => rcases execSerialize_cases h with ⟨e, rfl⟩ | ⟨-, -, -, vs, bytes, -, -, -, rfl⟩ <;> simp
  | deserialize =>
    rcases execDeserialize_cases h with ⟨e, -, rfl⟩ | ⟨-, e, rfl⟩ | ⟨-, a, -, -, rfl⟩ <;> simp

/-! ### How long the codes of a tree are -/

/-- The symbols of a valid tree are distinct bytes, so it has at most 256 leaves (10_state.md R56). -/
theorem State.holdsTree.length_symbols_le {s : State} {T : Tree} (h : s.holdsTree T) :
    T.symbols.length ≤ 256 := by
  obtain ⟨-, -, -, hnodup, -⟩ := h
  calc
    T.symbols.length ≤ Fintype.card Symbol := hnodup.length_le_card
    _ = FinEnum.card Symbol := FinEnum.card_eq_fintypeCard.symm
    _ = 256 := FinEnum.card_bitVec 8

/-- So every path to a leaf of it is at most MAX_CODE_LEN = 255 branches long (00_scope.md R6). -/
theorem State.holdsTree.path_length_le {s : State} {T : Tree} (h : s.holdsTree T) :
    ∀ p ∈ T.paths, p.2.length ≤ 255 := by
  intro p hp
  have hlt := T.path_length_lt p hp
  have hle := h.length_symbols_le
  omega

/-- The walk meets a leaf with the branches of its path behind it (41_encoder.md R181). -/
theorem Tree.paths_of_leaf_visit (T : Tree) {c p : Code} {i : NodeIdx} {sym : Symbol} {w : Weight}
    (h : ⟨i, .leaf sym w, p⟩ ∈ T.visitsFrom c) : ∃ q, (sym, q) ∈ T.paths ∧ p = c ++ q := by
  induction T generalizing c with
  | leaf j a v =>
    obtain ⟨-, ⟨rfl, -⟩, rfl⟩ : i = j ∧ (sym = a ∧ w = v) ∧ p = c := by simpa [Tree.visitsFrom] using h
    exact ⟨[], by simp [Tree.paths], by simp⟩
  | node j v l r ihl ihr =>
    rcases List.mem_append.1 (by simpa [Tree.visitsFrom] using h) with hl | hr
    · obtain ⟨q, hq, rfl⟩ := ihl hl
      exact ⟨false :: q, by simp [Tree.paths, hq], by simp⟩
    · obtain ⟨q, hq, rfl⟩ := ihr hr
      exact ⟨true :: q, by simp [Tree.paths, hq], by simp⟩

/-! ### How long the codes of a code table are -/

/-- Writing one entry leaves the others as they are. -/
theorem codeAt_set (t : Vector Code 256) (a sym : Symbol) (c : Code) :
    codeAt (t.set a.toNat c) sym = if a = sym then c else codeAt t sym := by
  simp [codeAt, Vector.getElem_set, BitVec.toNat_inj]

theorem codeAt_replicate (c : Code) (sym : Symbol) : codeAt (Vector.replicate 256 c) sym = c := by
  simp [codeAt]

/-- A bound on the codes of a table and on the paths of the leaves recorded in it bounds the codes of the result. -/
theorem length_codeAt_foldl_recordCode {n : Nat} (vs : List Visit) (t : Vector Code 256)
    (ht : ∀ sym, (codeAt t sym).length ≤ n)
    (hvs : ∀ i sym w p, ⟨i, .leaf sym w, p⟩ ∈ vs → p.length ≤ n) (sym : Symbol) :
    (codeAt (vs.foldl recordCode t) sym).length ≤ n := by
  induction vs generalizing t with
  | nil => exact ht sym
  | cons v vs ih =>
    refine ih _ (fun a => ?_) fun i a w p hp => hvs i a w p (List.mem_cons_of_mem _ hp)
    obtain ⟨i, node, p⟩ := v
    cases node with
    | internal => exact ht a
    | leaf b w =>
      have hp : p.length ≤ n := hvs i b w p List.mem_cons_self
      simp only [recordCode, codeAt_set]
      split
      · exact hp
      · exact ht a

/-- The codes GENLUT writes are no longer than the paths of the leaves met, or one bit for a lone leaf
(41_encoder.md R181, R182). -/
theorem length_codeAt_lutOf {n : Nat} (hn : 1 ≤ n) (vs : List Visit)
    (hvs : ∀ i sym w p, ⟨i, .leaf sym w, p⟩ ∈ vs → p.length ≤ n) (sym : Symbol) :
    (codeAt (lutOf vs) sym).length ≤ n := by
  unfold lutOf
  split
  · rw [codeAt_set, codeAt_replicate]
    split
    · exact hn
    · exact Nat.zero_le n
  · exact length_codeAt_foldl_recordCode vs _ (by simp [codeAt_replicate]) hvs sym

/-- Over a state that meets the tree invariant GENLUT writes codes of at most 255 bits. -/
theorem State.TreeInv.length_genlut_code_le {s : State} (hT : s.TreeInv) (hv : s.treeValid = true)
    {vs : List Visit} (hvs : s.treeVisits = some vs) (sym : Symbol) :
    (codeAt (lutOf vs) sym).length ≤ 255 := by
  refine length_codeAt_lutOf (by decide) vs (fun i a w p hp => ?_) sym
  rcases hT.1 hv with hempty | ⟨T, hT⟩
  · rw [State.treeVisits_emptyTree hempty] at hvs
    cases hvs
    cases hp
  · rw [State.treeVisits_holdsTree hT] at hvs
    cases hvs
    obtain ⟨q, hq, rfl⟩ := T.paths_of_leaf_visit hp
    exact hT.path_length_le _ hq

/-! ### The invariant -/

theorem State.CodesFit.of_lut_eq {s t : State} (h : s.CodesFit) (ht : t.lut = s.lut) : t.CodesFit := by
  unfold State.CodesFit
  rw [ht]
  exact h

/-- Both resets draw a new code table, of at most 255 bits per entry (10_state.md R63). -/
theorem State.codesFit_clear (s : State) : s.clear.CodesFit :=
  length_codeAt_freeLut (s.draws + 1)

theorem State.CodesFit.after_hostWrite {s : State} (h : s.CodesFit) (n : Size) (off : Offset) (v : Word) :
    (s.hostWrite n off v).CodesFit := by
  rcases s.hostWrite_cases n off v with ⟨-, e⟩ | ⟨-, -, e⟩ | ⟨-, r, -, hr, e⟩ | ⟨-, sym, -, e⟩ |
    ⟨-, k, -, e⟩ | ⟨-, e⟩
  · rcases s.writeCtrl_cases v with ⟨-, e'⟩ | ⟨-, e'⟩
    · rw [e, e']
      exact s.abort.codesFit_clear
    · exact h.of_lut_eq (by rw [e, e', State.acknowledge_lut])
  · exact h.of_lut_eq (by rw [e])
  · exact h.of_lut_eq (by rw [e, s.writeReg_lut v hr])
  · exact h.of_lut_eq (by rw [e])
  · exact h.of_lut_eq (by rw [e, State.store_lut])
  · exact h.of_lut_eq (by rw [e])

theorem State.CodesFit.after_exec {i : Instr} {s t : State} (h : s.CodesFit) (hT : s.TreeInv)
    (ht : exec i s = .next t) : t.CodesFit := by
  by_cases hi : i = .genlut
  · subst hi
    rcases execGenlut_cases ht with ⟨-, rfl⟩ | ⟨hv, vs, hvs, rfl⟩
    · exact h.of_lut_eq (s.raise_lut _)
    · exact hT.length_genlut_code_le hv hvs
  · exact h.of_lut_eq (exec_lut_of_ne_genlut hi ht)

theorem State.CodesFit.after_engineStep {s t : State} (h : s.CodesFit) (hT : s.TreeInv)
    (ht : engineStep s = .next t) : t.CodesFit := by
  rcases engineStep_cases ht with ⟨-, rfl⟩ | ⟨w, i, -, -, hx⟩ | ⟨w, r, -, -, rfl⟩
  · exact h
  · exact h.after_exec hT hx
  · exact h.of_lut_eq rfl

/-- Settles O12: only GENLUT and the resets write the code table; a reset draws entries of at most 255 bits, and a
path in a tree of distinct symbols is at most 255 branches long. -/
theorem stepKeepsCodeLengths : Obligations.StepKeepsCodeLengths := by
  intro s t hT h ht
  rcases step_cases ht with ⟨n, off, rest, -, rfl⟩ | ⟨n, off, v, rest, -, rfl⟩ | ⟨rest, -, rfl⟩ |
    ⟨rest, -, hx⟩ | ⟨-, hx⟩
  · exact h.of_lut_eq (State.hostRead_lut _ n off)
  · exact State.CodesFit.after_hostWrite (s := { s with events := rest }) h n off v
  · exact State.codesFit_clear _
  · exact State.CodesFit.after_engineStep (s := { s with events := rest }) h hT hx
  · exact h.after_engineStep hT hx

end Sys2Proof.Machine
end

section
/-! The host address map: where each register and table word stands, and what a target says of its transaction. -/

namespace Sys2Proof.Machine

/-! ### The target of each offset -/

/-- The word at a register's offset is that register (10_state.md R32). -/
theorem target_reg (p : Config.Params) (r : Reg) : target p .four r.offset = .reg r := by
  cases r <;> rfl

/-- An aligned word below 0x08000 is a word of the windows (20_memory.md R82, R84). -/
theorem target_word (p : Config.Params) {a : Nat} (ha : a < 0x8000) (h4 : a % 4 = 0) :
    target p .four (BitVec.ofNat 17 a) = windowTarget a := by
  have hoff : (BitVec.ofNat 17 a).toNat = a := by
    rw [BitVec.toNat_ofNat]
    omega
  simp [target, hoff, ha, h4]

theorem target_freq (p : Config.Params) (sym : Symbol) :
    target p .four (BitVec.ofNat 17 (0x400 + 4 * sym.toNat)) = .freq sym := by
  have hs := sym.isLt
  have hi : (0x400 + 4 * sym.toNat - 0x400) / 4 = sym.toNat := by omega
  rw [target_word p (by omega) (by omega), windowTarget, if_neg (by omega), if_neg (by omega),
    if_pos (by omega), hi, BitVec.ofNat_toNat, BitVec.setWidth_eq]

theorem target_node (p : Config.Params) {i k : Nat} (hi : i < 511) (hk : k < 4) :
    target p .four (BitVec.ofNat 17 (0x1000 + 16 * i + 4 * k)) = .node (BitVec.ofNat 9 i) k := by
  have e1 : (0x1000 + 16 * i + 4 * k - 0x1000) / 16 = i := by omega
  have e2 : (0x1000 + 16 * i + 4 * k - 0x1000) % 16 / 4 = k := by omega
  rw [target_word p (by omega) (by omega), windowTarget, if_neg (by omega), if_neg (by omega),
    if_neg (by omega), if_neg (by omega), if_pos (by omega), e1, e2]

/-- The slot past NODE[510] holds nothing (20_memory.md R85). -/
theorem target_past_node (p : Config.Params) {k : Nat} (hk : k < 4) :
    target p .four (BitVec.ofNat 17 (0x1000 + 16 * 511 + 4 * k)) = .nothing := by
  rw [target_word p (by omega) (by omega), windowTarget, if_neg (by omega), if_neg (by omega),
    if_neg (by omega), if_neg (by omega), if_neg (by omega), if_pos (by omega)]

theorem target_lut (p : Config.Params) (sym : Symbol) {k : Nat} (hk : k < 16) :
    target p .four (BitVec.ofNat 17 (0x4000 + 64 * sym.toNat + 4 * k)) = .lut sym k := by
  have hs := sym.isLt
  have e1 : (0x4000 + 64 * sym.toNat + 4 * k - 0x4000) / 64 = sym.toNat := by omega
  have e2 : (0x4000 + 64 * sym.toNat + 4 * k - 0x4000) % 64 / 4 = k := by omega
  rw [target_word p (by omega) (by omega), windowTarget, if_neg (by omega), if_neg (by omega),
    if_neg (by omega), if_neg (by omega), if_neg (by omega), if_neg (by omega), e1, e2,
    BitVec.ofNat_toNat, BitVec.setWidth_eq]

/-! ### The offset of each target -/

theorem regAt_eq_some {k : Nat} {r : Reg} (h : regAt k = some r) : r.offset.toNat = 4 * k := by
  have hk : k < 16 := by simpa [regAt] using (List.getElem?_eq_some_iff.1 h).1
  interval_cases k <;> cases h <;> rfl

/-- What a target says of the transaction that reaches it (20_memory.md R82-R88). -/
def Target.reachedBy (p : Config.Params) (n : Size) (off : Offset) : Target → Prop
  | .reg r => n = .four ∧ off = r.offset
  | .freq sym => n = .four ∧ off = BitVec.ofNat 17 (0x400 + 4 * sym.toNat)
  | .node _ _ => n = .four
  | .lut _ _ => n = .four
  | .dmem k => 0x10000 ≤ off.toNat ∧ k + n.bytes ≤ p.dmemBytes
  | .nothing => True

theorem windowTarget_reachedBy (p : Config.Params) {off : Offset} (h4 : off.toNat % 4 = 0) :
    (windowTarget off.toNat).reachedBy p .four off := by
  unfold windowTarget
  split
  · split
    · next r hr =>
      refine ⟨rfl, BitVec.eq_of_toNat_eq ?_⟩
      rw [regAt_eq_some hr]
      omega
    · trivial
  · split
    · trivial
    · split
      · refine ⟨rfl, BitVec.eq_of_toNat_eq ?_⟩
        simp only [BitVec.toNat_ofNat]
        omega
      · split
        · trivial
        · split
          · rfl
          · split
            · trivial
            · rfl

theorem target_reachedBy (p : Config.Params) (n : Size) (off : Offset) :
    (target p n off).reachedBy p n off := by
  unfold target
  split
  · split
    · next hw =>
      obtain ⟨rfl, h4⟩ := hw
      exact windowTarget_reachedBy p h4
    · trivial
  · split
    · trivial
    · next hlo =>
      generalize off.toNat - 0x10000 = k
      split
      · next hm => exact ⟨Nat.le_of_not_lt hlo, hm.2⟩
      · trivial

theorem target_eq_reg_iff {p : Config.Params} {n : Size} {off : Offset} {r : Reg} :
    target p n off = .reg r ↔ n = .four ∧ off = r.offset := by
  constructor
  · intro h
    simpa only [h, Target.reachedBy] using target_reachedBy p n off
  · rintro ⟨rfl, rfl⟩
    exact target_reg p r

theorem target_eq_freq {p : Config.Params} {n : Size} {off : Offset} {sym : Symbol}
    (h : target p n off = .freq sym) :
    n = .four ∧ off = BitVec.ofNat 17 (0x400 + 4 * sym.toNat) := by
  simpa only [h, Target.reachedBy] using target_reachedBy p n off

/-- A DMEM access lies in DMEM (20_memory.md R86-R88). -/
theorem target_eq_dmem {p : Config.Params} {n : Size} {off : Offset} {k : Nat}
    (h : target p n off = .dmem k) : 0x10000 ≤ off.toNat ∧ k + n.bytes ≤ p.dmemBytes := by
  simpa only [h, Target.reachedBy] using target_reachedBy p n off

end Sys2Proof.Machine
end

section
/-! Invariants of the step: what completions, errors, resets and host writes leave as they are, the induction over
one step said once, and the invariants of DMEM and of the report (O7, O8, O9). -/

namespace Sys2Proof.Machine

/-! ### The phase -/

theorem State.isBusy_eq_false {s : State} : s.isBusy = false ↔ s.phase = .idle := by
  unfold State.isBusy
  split <;> simp_all

theorem State.isBusy_eq_true {s : State} : s.isBusy = true ↔ ∃ w, s.phase = .busy w := by
  unfold State.isBusy
  split <;> simp_all

/-! ### Frames of an error -/

@[simp] theorem State.raise_cfg (s : State) (e : Error) : (s.raise e).cfg = s.cfg := by
  unfold State.raise
  split <;> rfl

@[simp] theorem State.raise_phase (s : State) (e : Error) : (s.raise e).phase = .idle := by
  unfold State.raise
  split <;> rfl

@[simp] theorem State.raise_done (s : State) (e : Error) : (s.raise e).done = true := by
  unfold State.raise
  split <;> rfl

@[simp] theorem State.raise_overrun (s : State) (e : Error) : (s.raise e).overrun = s.overrun := by
  unfold State.raise
  split <;> rfl

@[simp] theorem State.raise_freq (s : State) (e : Error) : (s.raise e).freq = s.freq := by
  unfold State.raise
  split <;> rfl

theorem State.sameTree_raise (s : State) (e : Error) : s.sameTree (s.raise e) := by
  unfold State.raise State.sameTree
  split <;> exact ⟨rfl, rfl, rfl, rfl, rfl⟩

theorem State.sameCodes_raise (s : State) (e : Error) : s.sameCodes (s.raise e) := by
  unfold State.raise State.sameCodes
  split <;> exact ⟨rfl, rfl⟩

/-- Losing the destination of an aborted command is all an abort does (70_reset_and_hazards.md R303). -/
theorem State.abort_cases (s : State) : s.abort = s ∨ s.abort = s.loseDst := by
  unfold State.abort
  split
  · exact .inl rfl
  · split
    · exact .inr rfl
    · exact .inl rfl

/-! ### What a command can do -/

/-- The outcomes of all commands: an error; a tree made by BUILD; the codes of the tree; the tree lost or loaded by
DESERIALIZE; and, for ENCODE, DECODE and SERIALIZE, output in the destination range (20_memory.md R90, R92). -/
theorem exec_cases {i : Instr} {s t : State} (h : exec i s = .next t) :
    (∃ e, t = s.raise e) ∨
    (i = .build ∧ ∃ ns n r l,
      t = ({ s with node := ns, nodeCount := n, root := r, leafCount := l, treeValid := true,
                    lutValid := false } : State).finish 0) ∨
    (i = .genlut ∧ s.treeValid = true ∧ ∃ vs, s.treeVisits = some vs ∧
      t = ({ s with lut := lutOf vs, lutValid := true } : State).finish 0) ∨
    (i = .deserialize ∧ ∃ e, t = s.loseTree.raise e) ∨
    (i = .deserialize ∧ s.rangesFit ∧ ∃ bs ns n l b out, bs.length ≤ s.dstCap.toNat ∧
      t = ({ s.storeDst bs with node := ns, nodeCount := n, root := 0, leafCount := l, bitCount := b,
                                treeValid := true, lutValid := false } : State).finish out) ∨
    (s.rangesFit ∧ ∃ bs b out, bs.length ≤ s.dstCap.toNat ∧
      t = ({ s.storeDst bs with bitCount := b } : State).finish out) := by
  cases i with
  | build => exact .inr (.inl ⟨rfl, _, _, _, _, (Host.Outcome.next.inj h).symm⟩)
  | genlut =>
    rcases execGenlut_cases h with ⟨-, e⟩ | ⟨hv, vs, hvs, e⟩
    · exact .inl ⟨_, e⟩
    · exact .inr (.inr (.inl ⟨rfl, hv, vs, hvs, e⟩))
  | encode =>
    rcases execEncode_cases h with he | ⟨-, hr, bits, -, hle, e⟩
    · exact .inl he
    · exact .inr (.inr (.inr (.inr (.inr ⟨hr, _, _, _, by simpa [packBits] using hle, e⟩))))
  | decode =>
    rcases execDecode_cases h with he | ⟨-, hr, -, out, -, hle, e⟩
    · exact .inl he
    · exact .inr (.inr (.inr (.inr (.inr ⟨hr, out, s.bitCount, _, hle, e⟩))))
  | serialize =>
    rcases execSerialize_cases h with he | ⟨-, hr, -, vs, bytes, -, -, hle, e⟩
    · exact .inl he
    · exact .inr (.inr (.inr (.inr (.inr ⟨hr, bytes, s.bitCount, _, hle, e⟩))))
  | deserialize =>
    rcases execDeserialize_cases h with ⟨e, -, ht⟩ | ⟨-, e, ht⟩ | ⟨hr, a, -, hle, ht⟩
    · exact .inl ⟨e, ht⟩
    · exact .inr (.inr (.inr (.inl ⟨rfl, e, ht⟩)))
    · exact .inr (.inr (.inr (.inr (.inl ⟨rfl, hr, _, _, _, _, _, _, by simpa [State.bytesAt] using hle, ht⟩))))

/-- Every command ends idle, with DONE set (60_exceptions.md R262), and writes neither OVERRUN nor FREQ
(20_memory.md R92). -/
theorem exec_frame {i : Instr} {s t : State} (h : exec i s = .next t) :
    t.phase = .idle ∧ t.done = true ∧ t.overrun = s.overrun ∧ t.freq = s.freq := by
  rcases exec_cases h with ⟨e, rfl⟩ | ⟨-, ns, n, r, l, rfl⟩ | ⟨-, -, vs, -, rfl⟩ | ⟨-, e, rfl⟩ |
    ⟨-, -, bs, ns, n, l, b, out, -, rfl⟩ | ⟨-, bs, b, out, -, rfl⟩ <;> simp

theorem exec_completes {i : Instr} {s t : State} (h : exec i s = .next t) : t.phase = .idle ∧ t.done = true := by
  obtain ⟨hp, hd, -⟩ := exec_frame h
  exact ⟨hp, hd⟩

/-- Only BUILD and DESERIALIZE write the tree (10_state.md R41, R50, R54). -/
theorem exec_sameTree {i : Instr} {s t : State} (hb : i ≠ .build) (hd : i ≠ .deserialize)
    (h : exec i s = .next t) : s.sameTree t := by
  rcases exec_cases h with ⟨e, rfl⟩ | ⟨h, -⟩ | ⟨-, -, vs, -, rfl⟩ | ⟨h, -⟩ | ⟨h, -⟩ | ⟨-, bs, b, out, -, rfl⟩
  · exact s.sameTree_raise e
  · exact absurd h hb
  · exact ⟨rfl, rfl, rfl, rfl, rfl⟩
  · exact absurd h hd
  · exact absurd h hd
  · exact ⟨rfl, rfl, rfl, rfl, rfl⟩

/-- But for GENLUT, a command that ends with LUT_VALID = 1 found it so, and left the tree as it was (R42). -/
theorem exec_lutValid {i : Instr} {s t : State} (hg : i ≠ .genlut) (h : exec i s = .next t)
    (hv : t.lutValid = true) : s.lutValid = true ∧ s.sameTree t := by
  rcases exec_cases h with ⟨e, rfl⟩ | ⟨-, ns, n, r, l, rfl⟩ | ⟨h, -⟩ | ⟨-, e, rfl⟩ |
    ⟨-, -, bs, ns, n, l, b, out, -, rfl⟩ | ⟨-, bs, b, out, -, rfl⟩
  · exact ⟨(s.sameCodes_raise e).1 ▸ hv, s.sameTree_raise e⟩
  · cases hv
  · exact absurd h hg
  · rw [(s.loseTree.sameCodes_raise e).1] at hv
    cases hv
  · cases hv
  · exact ⟨hv, ⟨rfl, rfl, rfl, rfl, rfl⟩⟩

/-! ### Frames of a host write -/

/-- But for a reset, a write of CTRL leaves the tables and the phase as they are (10_state.md R35). -/
theorem State.writeCtrl_frame (s : State) {v : Word} (hv : v.getLsbD 0 = false) :
    s.sameTree (s.writeCtrl v) ∧ s.sameCodes (s.writeCtrl v) ∧ (s.writeCtrl v).freq = s.freq ∧
      (s.writeCtrl v).phase = s.phase := by
  rcases s.writeCtrl_cases v with ⟨hv', -⟩ | ⟨-, e⟩
  · rw [hv] at hv'
    cases hv'
  · rw [e]
    exact ⟨⟨rfl, rfl, rfl, rfl, rfl⟩, ⟨rfl, rfl⟩, rfl, rfl⟩

theorem State.writeReg_frame (s : State) {r : Reg} (v : Word) (h : r ≠ .ctrl) :
    s.sameTree (s.writeReg r v) ∧ s.sameCodes (s.writeReg r v) ∧ (s.writeReg r v).freq = s.freq ∧
      (s.writeReg r v).overrun = s.overrun := by
  cases r with
  | ctrl => exact absurd rfl h
  | _ => exact ⟨⟨rfl, rfl, rfl, rfl, rfl⟩, ⟨rfl, rfl⟩, rfl, rfl⟩

/-- A host write is CTRL.SRST, or leaves the tree and the code table as they are (20_memory.md R83). -/
theorem State.hostWrite_tables (s : State) (n : Size) (off : Offset) (v : Word) :
    (target s.cfg n off = .reg .ctrl ∧ v.getLsbD 0 = true ∧ s.hostWrite n off v = s.softReset) ∨
    (s.sameTree (s.hostWrite n off v) ∧ s.sameCodes (s.hostWrite n off v)) := by
  have same : s.sameTree s ∧ s.sameCodes s := ⟨⟨rfl, rfl, rfl, rfl, rfl⟩, ⟨rfl, rfl⟩⟩
  rcases s.hostWrite_cases n off v with ⟨ht, e⟩ | ⟨-, -, e⟩ | ⟨-, r, -, hr, e⟩ | ⟨-, sym, -, e⟩ |
    ⟨-, k, -, e⟩ | ⟨-, e⟩ <;> rw [e]
  · cases hv : v.getLsbD 0 with
    | true => exact .inl ⟨ht, rfl, if_pos hv⟩
    | false =>
      obtain ⟨hT, hC, -⟩ := s.writeCtrl_frame hv
      exact .inr ⟨hT, hC⟩
  · exact .inr same
  · obtain ⟨hT, hC, -⟩ := s.writeReg_frame v hr
    exact .inr ⟨hT, hC⟩
  · exact .inr same
  · exact .inr same
  · exact .inr same

/-! ### The induction over one step -/

/-- A predicate that does not look at the model's own fields, and that every host write, reset and completion keeps,
is kept by every step. -/
theorem step_keeps {P : State → Prop}
    (hmodel : ∀ (s : State) (ev : List Event) (d : Nat) (w : Word), P s →
      P { s with events := ev, draws := d, readData := w })
    (hwrite : ∀ (s : State) (n : Size) (off : Offset) (v : Word), P s → P (s.hostWrite n off v))
    (hreset : ∀ s : State, P s → P s.hardReset)
    (hexec : ∀ (i : Instr) (s t : State), P s → exec i s = .next t → P t)
    (hillegal : ∀ (s : State) (w : Word), P s → P (s.preCheckFailed (illegalError w)))
    {s t : State} (h : P s) (ht : step s = .next t) : P t := by
  have hrest : ∀ rest, P { s with events := rest } := fun rest => hmodel s rest s.draws s.readData h
  have hengine : ∀ u : State, P u → engineStep u = .next t → P t := by
    intro u hu hx
    rcases engineStep_cases hx with ⟨-, rfl⟩ | ⟨w, i, -, -, hx⟩ | ⟨w, r, -, -, rfl⟩
    · exact hu
    · exact hexec i u t hu hx
    · exact hillegal u w hu
  rcases step_cases ht with ⟨n, off, rest, -, rfl⟩ | ⟨n, off, v, rest, -, rfl⟩ | ⟨rest, -, rfl⟩ |
    ⟨rest, -, hx⟩ | ⟨-, hx⟩
  · rcases State.hostRead_state { s with events := rest } n off with e | e <;> rw [e]
    · exact hmodel s rest s.draws _ h
    · exact hmodel s rest (s.draws + 1) _ h
  · exact hwrite _ n off v (hrest rest)
  · exact hreset _ (hrest rest)
  · exact hengine _ (hrest rest) hx
  · exact hengine s h hx

/-! ### DMEM -/

theorem State.MemInv.of_eq {s t : State} (h : s.MemInv) (hc : t.cfg = s.cfg) (hd : t.dmem = s.dmem) :
    t.MemInv := by
  unfold State.MemInv
  rw [hc, hd]
  exact h

theorem State.MemInv.store {s : State} (h : s.MemInv) {a : Nat} {bs : List Byte}
    (hin : a + bs.length ≤ s.cfg.dmemBytes) : (s.store a bs).MemInv :=
  ⟨h.1, s.wf_store h.2 (.inr hin)⟩

/-- Output that fits the destination range lies in DMEM (20_memory.md R90). -/
theorem State.MemInv.storeDst {s : State} (h : s.MemInv) (hr : s.rangesFit) {bs : List Byte}
    (hle : bs.length ≤ s.dstCap.toNat) : (s.storeDst bs).MemInv :=
  h.store (hr.dst hle)

theorem State.MemInv.raise {s : State} (h : s.MemInv) (e : Error) : (s.raise e).MemInv :=
  ⟨by rw [State.raise_cfg]; exact h.1, s.wf_raise e h.2⟩

@[simp] theorem length_bytesOfWord (n : Nat) (v : Word) : (bytesOfWord n v).length = n := by
  simp [bytesOfWord]

theorem State.MemInv.after_exec {i : Instr} {s t : State} (h : s.MemInv) (ht : exec i s = .next t) :
    t.MemInv := by
  rcases exec_cases ht with ⟨e, rfl⟩ | ⟨-, ns, n, r, l, rfl⟩ | ⟨-, -, vs, -, rfl⟩ | ⟨-, e, rfl⟩ |
    ⟨-, hr, bs, ns, n, l, b, out, hle, rfl⟩ | ⟨hr, bs, b, out, hle, rfl⟩
  · exact h.raise e
  · exact h
  · exact h
  · exact (h.of_eq (t := s.loseTree) rfl rfl).raise e
  · exact h.storeDst hr hle
  · exact h.storeDst hr hle

/-- A soft reset writes DMEM in the clipped destination range of an aborted command alone
(70_reset_and_hazards.md R303). -/
theorem State.MemInv.softReset {s : State} (h : s.MemInv) : s.softReset.MemInv := by
  rcases s.abort_cases with e | e <;> rw [State.softReset, e]
  · exact h.of_eq rfl rfl
  · exact ⟨h.1, s.wf_loseDst h.2⟩

theorem State.MemInv.after_hostWrite {s : State} (h : s.MemInv) (n : Size) (off : Offset) (v : Word) :
    (s.hostWrite n off v).MemInv := by
  rcases s.hostWrite_cases n off v with ⟨-, e⟩ | ⟨-, -, e⟩ | ⟨-, r, -, hr, e⟩ | ⟨-, sym, -, e⟩ |
    ⟨-, k, hk, e⟩ | ⟨-, e⟩ <;> rw [e]
  · rcases s.writeCtrl_cases v with ⟨-, e'⟩ | ⟨-, e'⟩ <;> rw [e']
    · exact h.softReset
    · exact h.of_eq rfl rfl
  · exact h.of_eq rfl rfl
  · cases r with
    | ctrl => exact absurd rfl hr
    | _ => exact h.of_eq rfl rfl
  · exact h.of_eq rfl rfl
  · obtain ⟨-, hin⟩ := target_eq_dmem hk
    exact h.store (by simpa using hin)
  · exact h

/-- Settles O8: a write to DMEM is a host write to bytes in DMEM, the output of a command that passed its range
checks, or a destination range clipped to DMEM. -/
theorem stepKeepsMemoryForm : Obligations.StepKeepsMemoryForm := by
  intro s t h ht
  refine step_keeps (P := State.MemInv) ?_ ?_ ?_ ?_ ?_ h ht
  · exact fun s ev d w h => h.of_eq rfl rfl
  · exact fun s n off v h => h.after_hostWrite n off v
  · exact fun s h => ⟨h.1, s.wf_hardReset⟩
  · exact fun i s t h ht => h.after_exec ht
  · exact fun s w h => h.of_eq rfl rfl

/-! ### The report -/

/-- An idle state says nothing of what reads 0 while busy. -/
theorem State.ReportInv.of_idle {s : State} (h : s.phase = .idle) : s.ReportInv := by
  intro hb
  rw [State.isBusy_eq_false.2 h] at hb
  cases hb

/-- A command issued has its report cleared (60_exceptions.md R261). -/
theorem State.reportInv_issue (s : State) (w : Word) : (s.issue w).ReportInv := fun _ => ⟨rfl, rfl, rfl, rfl⟩

/-- A write of CTRL can clear DONE but not set it (10_state.md R35). -/
theorem State.ReportInv.writeCtrl {s : State} (h : s.ReportInv) (v : Word) : (s.writeCtrl v).ReportInv := by
  rcases s.writeCtrl_cases v with ⟨-, e⟩ | ⟨-, e⟩ <;> rw [e]
  · exact .of_idle rfl
  · intro hb
    obtain ⟨hdone, hreport⟩ := h hb
    exact ⟨by rw [State.acknowledge_done, hdone, Bool.false_and], hreport⟩

/-- While idle a host write leaves the engine idle, or issues a command. -/
theorem State.reportInv_writeReg {s : State} (hp : s.phase = .idle) {r : Reg} (hr : r ≠ .ctrl) (v : Word) :
    (s.writeReg r v).ReportInv := by
  cases r with
  | ctrl => exact absurd rfl hr
  | cmd => exact s.reportInv_issue v
  | _ => exact .of_idle hp

theorem State.ReportInv.after_hostWrite {s : State} (h : s.ReportInv) (n : Size) (off : Offset) (v : Word) :
    (s.hostWrite n off v).ReportInv := by
  rcases s.hostWrite_cases n off v with ⟨-, e⟩ | ⟨-, -, e⟩ | ⟨hi, r, -, hr, e⟩ | ⟨hi, sym, -, e⟩ |
    ⟨hi, k, -, e⟩ | ⟨hi, e⟩ <;> rw [e]
  · exact h.writeCtrl v
  · exact h
  · exact State.reportInv_writeReg (State.isBusy_eq_false.1 hi) hr v
  · exact h
  · exact h
  · exact h

/-- Settles O9: an issue clears the report, nothing sets it while busy, and every completion ends idle. -/
theorem stepKeepsBusyReportClear : Obligations.StepKeepsBusyReportClear := by
  intro s t h ht
  refine step_keeps (P := State.ReportInv) ?_ ?_ ?_ ?_ ?_ h ht
  · exact fun s ev d w h => h
  · exact fun s n off v h => h.after_hostWrite n off v
  · exact fun s h => .of_idle rfl
  · exact fun i s t h ht => .of_idle (exec_completes ht).1
  · exact fun s w h => .of_idle rfl

end Sys2Proof.Machine
end

section
/-! A tree that NODE holds: its nodes by index (O13), the tree invariant under frames, and the state after reset (O7). -/

namespace Sys2Proof.Machine

/-! ### The nodes of a tree by their indices -/

/-- The indices below the root, in pre-order. -/
def Tree.inner : Tree → List Nat
  | .leaf _ _ _ => []
  | .node _ _ l r => l.indices ++ r.indices

theorem Tree.indices_eq_cons (T : Tree) : T.indices = T.idx.toNat :: T.inner := by
  cases T <;> rfl

theorem Tree.mem_indices_of_mem_inner {T : Tree} {n : Nat} (h : n ∈ T.inner) : n ∈ T.indices := by
  rw [T.indices_eq_cons]
  exact List.mem_cons_of_mem _ h

/-- The children of a node of the tree are two different nodes below the root. -/
theorem Tree.children_of_internal {t : Vector Node 511} (T : Tree) (hT : T.heldBy t) (hnd : T.indices.Nodup)
    {i l r : NodeIdx} {w : Weight} (hi : i.toNat ∈ T.indices) (he : nodeAt t i = some (.internal w l r)) :
    l.toNat ∈ T.inner ∧ r.toNat ∈ T.inner ∧ l ≠ r := by
  induction T with
  | leaf j a v =>
    obtain rfl : i = j := by simpa [Tree.indices, BitVec.toNat_inj] using hi
    rw [show nodeAt t i = some (.leaf a v) from hT] at he
    cases he
  | node j v L R ihL ihR =>
    obtain ⟨hj, hL, hR⟩ := hT
    obtain ⟨-, hndLR⟩ := List.nodup_cons.1 hnd
    obtain ⟨hndL, hndR, hdisj⟩ := List.nodup_append.1 hndLR
    rcases List.mem_cons.1 hi with h | h
    · obtain rfl := BitVec.eq_of_toNat_eq h
      obtain ⟨-, rfl, rfl⟩ : w = v ∧ l = L.idx ∧ r = R.idx := by simpa [hj, eq_comm] using he
      exact ⟨List.mem_append_left _ L.idx_mem_indices, List.mem_append_right _ R.idx_mem_indices,
        fun e => hdisj _ L.idx_mem_indices _ R.idx_mem_indices (congrArg BitVec.toNat e)⟩
    · rcases List.mem_append.1 h with h | h
      · obtain ⟨h1, h2, hne⟩ := ihL hL hndL h
        exact ⟨List.mem_append_left _ (mem_indices_of_mem_inner h1),
          List.mem_append_left _ (mem_indices_of_mem_inner h2), hne⟩
      · obtain ⟨h1, h2, hne⟩ := ihR hR hndR h
        exact ⟨List.mem_append_right _ (mem_indices_of_mem_inner h1),
          List.mem_append_right _ (mem_indices_of_mem_inner h2), hne⟩

/-- A Leaf entry among the nodes of the tree is one of its leaves. -/
theorem Tree.mem_symbols_of_leaf {t : Vector Node 511} (T : Tree) (hT : T.heldBy t) {i : NodeIdx}
    {sym : Symbol} {w : Weight} (hi : i.toNat ∈ T.indices) (he : nodeAt t i = some (.leaf sym w)) :
    sym ∈ T.symbols := by
  induction T with
  | leaf j a v =>
    obtain rfl : i = j := by simpa [Tree.indices, BitVec.toNat_inj] using hi
    obtain ⟨rfl, -⟩ : a = sym ∧ v = w := by simpa [show nodeAt t i = some (.leaf a v) from hT] using he
    simp [Tree.symbols]
  | node j v L R ihL ihR =>
    obtain ⟨hj, hL, hR⟩ := hT
    rcases List.mem_cons.1 hi with h | h
    · obtain rfl := BitVec.eq_of_toNat_eq h
      rw [hj] at he
      cases he
    · rcases List.mem_append.1 h with h | h
      · exact List.mem_append_left _ (ihL hL h)
      · exact List.mem_append_right _ (ihR hR h)

/-- With distinct symbols, one symbol stands in one Leaf entry (10_state.md R56, item 5). -/
theorem Tree.leaf_index_unique {t : Vector Node 511} (T : Tree) (hT : T.heldBy t) (hnd : T.symbols.Nodup)
    {i j : NodeIdx} {sym : Symbol} {v w : Weight} (hi : i.toNat ∈ T.indices) (hj : j.toNat ∈ T.indices)
    (hei : nodeAt t i = some (.leaf sym v)) (hej : nodeAt t j = some (.leaf sym w)) : i = j := by
  induction T with
  | leaf k a u =>
    obtain rfl : i = k := by simpa [Tree.indices, BitVec.toNat_inj] using hi
    obtain rfl : j = i := by simpa [Tree.indices, BitVec.toNat_inj] using hj
    rfl
  | node k u L R ihL ihR =>
    obtain ⟨hk, hL, hR⟩ := hT
    obtain ⟨hndL, hndR, hdisj⟩ := List.nodup_append.1 hnd
    have hne : ∀ {m : NodeIdx} {x : Weight}, nodeAt t m = some (.leaf sym x) →
        m.toNat ∈ (Tree.node k u L R).indices → m.toNat ∈ L.indices ∨ m.toNat ∈ R.indices := by
      intro m x hm hmem
      rcases List.mem_cons.1 hmem with h | h
      · obtain rfl := BitVec.eq_of_toNat_eq h
        rw [hk] at hm
        cases hm
      · exact List.mem_append.1 h
    rcases hne hei hi with hi' | hi' <;> rcases hne hej hj with hj' | hj'
    · exact ihL hL hndL hi' hj'
    · exact absurd rfl (hdisj _ (L.mem_symbols_of_leaf hL hi' hei) _ (R.mem_symbols_of_leaf hR hj' hej))
    · exact absurd rfl (hdisj _ (L.mem_symbols_of_leaf hL hj' hej) _ (R.mem_symbols_of_leaf hR hi' hei))
    · exact ihR hR hndR hi' hj'

/-- The nodes of the current tree are the entries below NODE_COUNT (10_state.md R56, item 3). -/
theorem State.holdsTree.mem_indices_iff {s : State} {T : Tree} (h : s.holdsTree T) {n : Nat} :
    n ∈ T.indices ↔ n < s.nodeCount.toNat := by
  obtain ⟨-, -, hperm, -⟩ := h
  rw [hperm.mem_iff, List.mem_range]

theorem State.holdsTree.nodup_indices {s : State} {T : Tree} (h : s.holdsTree T) : T.indices.Nodup := by
  obtain ⟨-, -, hperm, -⟩ := h
  exact hperm.nodup_iff.2 List.nodup_range

/-- NODE_COUNT = 2 * LEAF_COUNT - 1 for a tree with a node (10_state.md R56, item 1). -/
theorem State.holdsTree.counts {s : State} {T : Tree} (h : s.holdsTree T) :
    s.nodeCount.toNat + 1 = 2 * s.leafCount.toNat := by
  obtain ⟨-, -, -, -, hleaves⟩ := id h
  rw [← h.nodeCount_eq, ← hleaves, T.length_indices]

/-- The children of a node of the current tree are nodes of it, neither is the root, and they differ
(10_state.md R56, item 2). -/
theorem State.holdsTree.children {s : State} {T : Tree} (h : s.holdsTree T) {i l r : NodeIdx} {w : Weight}
    (hi : i.toNat < s.nodeCount.toNat) (he : nodeAt s.node i = some (.internal w l r)) :
    l.toNat < s.nodeCount.toNat ∧ r.toNat < s.nodeCount.toNat ∧ l ≠ s.root ∧ r ≠ s.root ∧ l ≠ r := by
  obtain ⟨hroot, hheld, -⟩ := id h
  obtain ⟨hl, hr, hne⟩ := T.children_of_internal hheld h.nodup_indices (h.mem_indices_iff.2 hi) he
  have hnd := h.nodup_indices
  rw [T.indices_eq_cons, List.nodup_cons] at hnd
  have hmem : ∀ {c : NodeIdx}, c.toNat ∈ T.inner → c.toNat < s.nodeCount.toNat ∧ c ≠ s.root := by
    intro c hc
    refine ⟨h.mem_indices_iff.1 (Tree.mem_indices_of_mem_inner hc), ?_⟩
    rintro rfl
    exact hnd.1 (hroot ▸ hc)
  exact ⟨(hmem hl).1, (hmem hr).1, (hmem hl).2, (hmem hr).2, hne⟩

/-- A tree of one node is a lone leaf (10_state.md R56, item 5). -/
theorem State.holdsTree.lone_leaf {s : State} {T : Tree} (h : s.holdsTree T) (h1 : s.nodeCount = 1#9) :
    ∃ sym w, nodeAt s.node s.root = some (.leaf sym w) := by
  obtain ⟨hroot, hheld, -⟩ := id h
  have hlen := h.nodeCount_eq
  cases T with
  | leaf i sym w => exact ⟨sym, w, hroot ▸ hheld⟩
  | node i w l r =>
    have hl := List.length_pos_of_ne_nil l.indices_ne_nil
    rw [h1, show (1#9 : NodeIdx).toNat = 1 from rfl, Tree.indices, List.length_cons, List.length_append] at hlen
    omega

/-- Settles O13: the empty tree has no entry to speak of, and a held tree's nodes are the entries below NODE_COUNT. -/
theorem validTreeShape : Obligations.ValidTreeShape := by
  intro s hT hv
  rcases hT.1 hv with ⟨hn, hr, hl⟩ | ⟨T, h⟩
  · have hno : ∀ {P : Prop} {i : Nat}, i < s.nodeCount.toNat → P := by
      intro P i hi
      rw [hn] at hi
      exact absurd hi (Nat.not_lt_zero i)
    refine ⟨fun _ => ⟨hl, hr⟩, fun h0 => absurd hn h0, fun _ _ _ _ hi _ => hno hi, by rw [hn, hl]; rfl,
      fun _ _ _ _ _ hi _ _ _ => hno hi, fun h1 => ?_⟩
    rw [hn] at h1
    cases h1
  · obtain ⟨hroot, hheld, -, hnd, -⟩ := id h
    have hcounts := h.counts
    have hrootlt : s.root.toNat < s.nodeCount.toNat := hroot ▸ h.mem_indices_iff.1 T.idx_mem_indices
    exact ⟨fun h0 => absurd h0 h.nodeCount_ne_zero, fun _ => ⟨by omega, by omega, hrootlt⟩,
      fun _ _ _ _ hi he => h.children hi he, h.leafEntries_eq,
      fun _ _ _ _ _ hi hj hei hej =>
        T.leaf_index_unique hheld hnd (h.mem_indices_iff.2 hi) (h.mem_indices_iff.2 hj) hei hej,
      h.lone_leaf⟩

/-! ### The tree invariant under frames -/

theorem State.holdsTree.of_sameTree {s t : State} {T : Tree} (h : s.holdsTree T) (e : s.sameTree t) :
    t.holdsTree T := by
  obtain ⟨-, hnode, hcount, hroot, hleaf⟩ := e
  unfold State.holdsTree
  rw [hnode, hcount, hroot, hleaf]
  exact h

theorem State.emptyTree.of_sameTree {s t : State} (h : s.emptyTree) (e : s.sameTree t) : t.emptyTree := by
  obtain ⟨-, -, hcount, hroot, hleaf⟩ := e
  unfold State.emptyTree
  rw [hcount, hroot, hleaf]
  exact h

theorem State.TreeInv.of_sameTree {s t : State} (h : s.TreeInv) (e : s.sameTree t) : t.TreeInv := by
  obtain ⟨hvalid, -⟩ := id e
  unfold State.TreeInv
  rw [hvalid]
  exact ⟨fun hv => (h.1 hv).imp (·.of_sameTree e) (fun ⟨T, hT⟩ => ⟨T, hT.of_sameTree e⟩),
    fun hv => (h.2 hv).of_sameTree e⟩

theorem State.TreeInv.of_holdsTree {s : State} {T : Tree} (hv : s.treeValid = true) (h : s.holdsTree T) :
    s.TreeInv :=
  ⟨fun _ => .inr ⟨T, h⟩, fun h => (Bool.false_ne_true (h ▸ hv)).elim⟩

theorem State.TreeInv.of_emptyTree {s : State} (h : s.emptyTree) : s.TreeInv :=
  ⟨fun _ => .inl h, fun _ => h⟩

/-- Settles O7: an idle engine, an empty memory, no tree, no code table, and free codes of at most 255 bits. -/
theorem resetMeetsInvariants : Obligations.ResetMeetsInvariants :=
  ⟨⟨by decide, State.wf_reset⟩, .of_idle rfl, .of_emptyTree ⟨rfl, rfl, rfl⟩, nofun, length_codeAt_freeLut 1⟩

end Sys2Proof.Machine
end

section
/-! BUILD establishes the tree invariant: the members of the priority set are the roots of a forest that holds every
node and every present symbol once, and a merge joins two of its trees (40_tree_builder.md R160-R168). -/

namespace Sys2Proof.Machine

/-! ### The entries written from NODE[0] on -/

theorem nodeAt_writeNodes (t : Vector Node 511) {ns : List Node} {k : Nat} {n : Node} (hk : k < 511)
    (h : ns[k]? = some n) : nodeAt (writeNodes t ns) (BitVec.ofNat 9 k) = some n := by
  have hmod : k % 512 = k := Nat.mod_eq_of_lt (by omega)
  simp [nodeAt, writeNodes, hmod, hk, h]

/-- More nodes after the first ones leave those as they are. -/
theorem nodeAt_writeNodes_append (t : Vector Node 511) (ns more : List Node) {i : NodeIdx}
    (h : i.toNat < ns.length) : nodeAt (writeNodes t (ns ++ more)) i = nodeAt (writeNodes t ns) i := by
  by_cases hi : i.toNat < 511
  · simp [nodeAt, writeNodes, hi, List.getElem?_append_left h]
  · simp [nodeAt, hi]

/-- Whether a table holds a tree depends on the entries of its nodes alone. -/
theorem Tree.heldBy.of_eq {t t' : Vector Node 511} {T : Tree} (h : T.heldBy t)
    (e : ∀ i : NodeIdx, i.toNat ∈ T.indices → nodeAt t' i = nodeAt t i) : T.heldBy t' := by
  induction T with
  | leaf i sym w => exact (e i List.mem_cons_self).trans h
  | node i w l r ihl ihr =>
    obtain ⟨hi, hl, hr⟩ := h
    exact ⟨(e i List.mem_cons_self).trans hi,
      ihl hl fun j hj => e j (List.mem_cons_of_mem _ (List.mem_append_left _ hj)),
      ihr hr fun j hj => e j (List.mem_cons_of_mem _ (List.mem_append_right _ hj))⟩

/-! ### Present symbols -/

/-- The model's list of present symbols with their counts (R160) is that of the statements. -/
theorem presentSymbols_eq (freq : Vector Word 256) :
    presentSymbols freq = (presentIn freq).map fun sym => (sym, freqAt freq sym) := by
  have hzip : freq.toList.zipIdx =
      (List.range 256).map fun i => (freqAt freq (BitVec.ofNat 8 i), i) := by
    refine List.ext_getElem (by simp) fun i h1 h2 => ?_
    have hi : i < 256 := by simpa using h2
    have hmod : i % 256 = i := Nat.mod_eq_of_lt hi
    simp [freqAt, hmod]
  rw [presentSymbols, hzip, presentIn, List.filter_map, List.map_map, List.filterMap_map,
    ← List.filterMap_eq_map, ← List.filterMap_eq_filter, List.filterMap_filterMap]
  refine List.filterMap_congr fun i _ => ?_
  by_cases h : freqAt freq (BitVec.ofNat 8 i) = 0#32 <;> simp [Option.guard, h]

theorem nodup_presentIn (freq : Vector Word 256) : (presentIn freq).Nodup := by
  refine (List.nodup_range.map_on fun i hi j hj h => ?_).filter _
  have h' := congrArg BitVec.toNat h
  simp only [BitVec.toNat_ofNat] at h'
  rw [List.mem_range] at hi hj
  omega

theorem length_presentIn_le (freq : Vector Word 256) : (presentIn freq).length ≤ 256 :=
  (List.length_filter_le _ _).trans (by simp)

/-- NODE[i] as BUILD allocates it: the leaf of the `i`-th present symbol (R160). -/
def leafTree (freq : Vector Word 256) (i : Nat) : Tree :=
  .leaf (BitVec.ofNat 9 i) ((presentIn freq).getD i 0#8)
    ((freqAt freq ((presentIn freq).getD i 0#8)).setWidth 40)

theorem leafNodes_eq (freq : Vector Word 256) :
    leafNodes freq = (presentIn freq).map fun sym => .leaf sym ((freqAt freq sym).setWidth 40) := by
  rw [leafNodes, presentSymbols_eq, List.map_map]
  rfl

@[simp] theorem length_leafNodes (freq : Vector Word 256) :
    (leafNodes freq).length = (presentIn freq).length := by
  simp [leafNodes_eq]

@[simp] theorem map_idx_initialKeys (leaves : List Node) :
    (initialKeys leaves).map Key.idx = List.range leaves.length := by
  rw [initialKeys, List.map_map, List.range_eq_range', ← List.zipIdx_map_snd 0 leaves]
  rfl

/-! ### The priority set -/

theorem minKey_mem (m : Key) (ks : List Key) : minKey m ks ∈ m :: ks := by
  induction ks generalizing m with
  | nil => exact List.mem_cons_self
  | cons k ks ih =>
    rw [minKey]
    rcases List.mem_cons.1 (ih (if k.lt m then k else m)) with h | h
    · rw [h]
      split <;> simp
    · exact List.mem_cons_of_mem _ (List.mem_cons_of_mem _ h)

/-- Extracting takes one member out of the set (R161). -/
theorem extractMin_perm {p rest : List Key} {m : Key} (h : extractMin p = some (m, rest)) :
    p.Perm (m :: rest) := by
  cases p with
  | nil => cases h
  | cons k ks =>
    cases h
    exact List.perm_cons_erase (minKey_mem k ks)

theorem extractMin_eq_none {p : List Key} (h : extractMin p = none) : p = [] := by
  cases p with
  | nil => rfl
  | cons k ks => cases h

/-! ### The forest of the priority set -/

/-- The nodes made so far form a forest with the roots `js`: the tree of each root stands in NODE, each node belongs
to one tree, and the leaves have the symbols `syms`. -/
structure Forest (t : Vector Node 511) (syms : List Symbol) (ns : List Node) (js : List Nat)
    (tree : Nat → Tree) : Prop where
  held : ∀ j ∈ js, (tree j).heldBy (writeNodes t ns)
  root : ∀ j ∈ js, (tree j).idx.toNat = j
  indices : (js.flatMap fun j => (tree j).indices).Perm (List.range ns.length)
  symbols : (js.flatMap fun j => (tree j).symbols).Perm syms

section
variable {t : Vector Node 511} {syms : List Symbol} {ns : List Node} {js : List Nat} {tree : Nat → Tree}

theorem Forest.of_perm (h : Forest t syms ns js tree) {js' : List Nat} (e : js.Perm js') :
    Forest t syms ns js' tree where
  held j hj := h.held j (e.mem_iff.2 hj)
  root j hj := h.root j (e.mem_iff.2 hj)
  indices := (e.flatMap_right _).symm.trans h.indices
  symbols := (e.flatMap_right _).symm.trans h.symbols

theorem Forest.index_lt (h : Forest t syms ns js tree) {i j : Nat} (hj : j ∈ js) (hi : i ∈ (tree j).indices) :
    i < ns.length :=
  List.mem_range.1 (h.indices.mem_iff.1 (List.mem_flatMap.2 ⟨j, hj, hi⟩))

/-- A forest of F trees with L leaves has 2L - F nodes. -/
theorem Forest.count (h : Forest t syms ns js tree) : ns.length + js.length = 2 * syms.length := by
  have key : ∀ js : List Nat, (js.flatMap fun j => (tree j).indices).length + js.length =
      2 * (js.flatMap fun j => (tree j).symbols).length := by
    intro js
    induction js with
    | nil => rfl
    | cons j js ih =>
      have hj := (tree j).length_indices
      simp only [List.flatMap_cons, List.length_append, List.length_cons]
      omega
  have hi := h.indices.length_eq
  have hs := h.symbols.length_eq
  have hk := key js
  rw [List.length_range] at hi
  omega

theorem Forest.root_lt (h : Forest t syms ns js tree) {j : Nat} (hj : j ∈ js) : j < ns.length :=
  h.index_lt hj (by simpa only [h.root j hj] using (tree j).idx_mem_indices)

theorem Forest.idx_eq (h : Forest t syms ns js tree) {j : Nat} (hj : j ∈ js) :
    (tree j).idx = BitVec.ofNat 9 j := by
  conv_rhs => rw [← h.root j hj, BitVec.ofNat_toNat, BitVec.setWidth_eq]

/-- A merge joins the trees of `b` and `a` under a new root (R163). -/
theorem Forest.merge {a b : Nat} (h : Forest t syms ns (a :: b :: js) tree) (hns : ns.length < 511)
    (w : Weight) :
    Forest t syms (ns ++ [.internal w (BitVec.ofNat 9 b) (BitVec.ofNat 9 a)]) (js ++ [ns.length])
      (Function.update tree ns.length (.node (BitVec.ofNat 9 ns.length) w (tree b) (tree a))) := by
  have ha : a ∈ a :: b :: js := by simp
  have hb : b ∈ a :: b :: js := by simp
  have hmem : ∀ j ∈ js, j ∈ a :: b :: js := fun j hj => by simp [hj]
  have hold : ∀ j ∈ js, Function.update tree ns.length
      (.node (BitVec.ofNat 9 ns.length) w (tree b) (tree a)) j = tree j := fun j hj =>
    Function.update_of_ne (h.root_lt (hmem j hj)).ne _ _
  have hheld : ∀ j ∈ a :: b :: js, (tree j).heldBy
      (writeNodes t (ns ++ [.internal w (BitVec.ofNat 9 b) (BitVec.ofNat 9 a)])) := fun j hj =>
    (h.held j hj).of_eq fun i hi => nodeAt_writeNodes_append t ns _ (h.index_lt hj hi)
  refine ⟨fun j hj => ?_, fun j hj => ?_, ?_, ?_⟩
  · rcases List.mem_append.1 hj with hj | hj
    · rw [hold j hj]
      exact hheld j (hmem j hj)
    · obtain rfl := List.mem_singleton.1 hj
      rw [Function.update_self]
      refine ⟨?_, hheld b hb, hheld a ha⟩
      rw [h.idx_eq ha, h.idx_eq hb]
      exact nodeAt_writeNodes t hns (by simp)
  · rcases List.mem_append.1 hj with hj | hj
    · rw [hold j hj]
      exact h.root j (hmem j hj)
    · obtain rfl := List.mem_singleton.1 hj
      rw [Function.update_self, Tree.idx, BitVec.toNat_ofNat]
      omega
  · have hnew : (BitVec.ofNat 9 ns.length).toNat = ns.length := by
      rw [BitVec.toNat_ofNat]
      omega
    rw [List.flatMap_append, List.flatMap_congr fun j hj => congrArg Tree.indices (hold j hj)]
    refine List.perm_iff_count.2 fun x => ?_
    have hx := h.indices.count_eq x
    simp only [List.flatMap_cons, List.count_append] at hx
    simp only [List.flatMap_singleton, Function.update_self, Tree.indices, hnew, List.length_append,
      List.length_singleton, List.range_succ, List.count_append, List.count_cons, List.count_nil]
    omega
  · rw [List.flatMap_append, List.flatMap_congr fun j hj => congrArg Tree.symbols (hold j hj)]
    refine List.perm_iff_count.2 fun x => ?_
    have hx := h.symbols.count_eq x
    simp only [List.flatMap_cons, List.count_append] at hx
    simp only [List.flatMap_singleton, Function.update_self, Tree.symbols, List.count_append]
    omega

/-- The merge steps keep the forest (R163); at most 256 leaves leave room for every new node. -/
theorem Forest.mergeAll (fuel : Nat) {p : List Key} (h : Forest t syms ns (p.map Key.idx) tree)
    (hsyms : syms.length ≤ 256) :
    ∃ tree', Forest t syms (Machine.mergeAll fuel p ns).2 ((Machine.mergeAll fuel p ns).1.map Key.idx) tree' := by
  induction fuel generalizing p ns tree with
  | zero => exact ⟨tree, h⟩
  | succ fuel ih =>
    rw [Machine.mergeAll]
    split
    · exact ⟨tree, h⟩
    · next a p1 h1 =>
      split
      · exact ⟨tree, h⟩
      · next b p2 h2 =>
        have hp : p.Perm (a :: b :: p2) := (extractMin_perm h1).trans ((extractMin_perm h2).cons a)
        have hf : Forest t syms ns (a.idx :: b.idx :: p2.map Key.idx) tree := h.of_perm (hp.map Key.idx)
        have hns : ns.length < 511 := by
          have hc := hf.count
          simp only [List.length_cons] at hc
          omega
        refine ih (tree := Function.update tree ns.length
          (.node (BitVec.ofNat 9 ns.length) (a.weight + b.weight) (tree b.idx) (tree a.idx))) ?_
        rw [List.map_append]
        exact hf.merge hns (a.weight + b.weight)
end

/-- With as many steps as members, the merges end with one member (R164). -/
theorem mergeAll_one {fuel : Nat} {p : List Key} {ns : List Node} (hp : p ≠ []) (hf : p.length ≤ fuel) :
    ∃ k, (mergeAll fuel p ns).1 = [k] := by
  induction fuel generalizing p ns with
  | zero => exact absurd (List.length_eq_zero_iff.1 (Nat.le_zero.1 hf)) hp
  | succ fuel ih =>
    rw [mergeAll]
    split
    · next h1 => exact absurd (extractMin_eq_none h1) hp
    · next a p1 h1 =>
      have hlen := (extractMin_perm h1).length_eq
      split
      · next h2 =>
        rw [extractMin_eq_none h2] at hlen
        exact List.length_eq_one_iff.1 hlen
      · next b p2 h2 =>
        have hlen2 := (extractMin_perm h2).length_eq
        refine ih (by simp) ?_
        simp only [List.length_cons] at hlen hlen2
        simp only [List.length_append, List.length_singleton]
        omega

/-- The leaves as they are allocated are a forest of one-node trees (R160). -/
theorem forest_leaves (t : Vector Node 511) (freq : Vector Word 256) :
    Forest t (presentIn freq) (leafNodes freq) ((initialKeys (leafNodes freq)).map Key.idx) (leafTree freq) := by
  have hle := length_presentIn_le freq
  rw [map_idx_initialKeys, length_leafNodes]
  have hidx : ∀ j ∈ List.range (presentIn freq).length, (leafTree freq j).idx.toNat = j := by
    intro j hj
    have := List.mem_range.1 hj
    rw [leafTree, Tree.idx, BitVec.toNat_ofNat]
    omega
  refine ⟨fun j hj => ?_, hidx, ?_, ?_⟩
  · have := List.mem_range.1 hj
    refine nodeAt_writeNodes t (by omega) ?_
    simp [leafNodes_eq, this]
  · rw [length_leafNodes]
    refine List.Perm.of_eq ?_
    calc
      _ = (List.range (presentIn freq).length).flatMap fun j => [j] :=
        List.flatMap_congr fun j hj => congrArg (fun n => [n]) (hidx j hj)
      _ = List.range (presentIn freq).length := List.flatMap_singleton' _
  · refine List.Perm.of_eq ?_
    calc
      _ = (List.range (presentIn freq).length).map fun j => (presentIn freq).getD j 0#8 :=
        List.map_eq_flatMap.symm
      _ = presentIn freq := List.ext_getElem (by simp) fun j h1 h2 => by simp [h2]

/-! ### What BUILD makes -/

/-- BUILD makes the empty tree of no present symbol, and otherwise a tree of the present symbols (R164-R167). -/
theorem build_tree (t : Vector Node 511) (freq : Vector Word 256) :
    (presentIn freq = [] ∧ buildTree freq = ([], [])) ∨
    ∃ T : Tree, T.idx = rootOf (buildTree freq).1 ∧ T.heldBy (writeNodes t (buildTree freq).2) ∧
      T.indices.Perm (List.range (buildTree freq).2.length) ∧ T.symbols.Perm (presentIn freq) := by
  by_cases h0 : presentIn freq = []
  · have hleaves : leafNodes freq = [] := by rw [leafNodes_eq, h0, List.map_nil]
    exact .inl ⟨h0, by simp [buildTree, hleaves, initialKeys, mergeAll]⟩
  · right
    have hlen : (initialKeys (leafNodes freq)).length = (leafNodes freq).length := by simp [initialKeys]
    have hne : initialKeys (leafNodes freq) ≠ [] := by
      rw [← List.length_pos_iff, hlen, length_leafNodes]
      exact List.length_pos_of_ne_nil h0
    obtain ⟨k, hk⟩ := mergeAll_one (ns := leafNodes freq) hne hlen.le
    obtain ⟨tree, hf⟩ := (forest_leaves t freq).mergeAll (leafNodes freq).length (length_presentIn_le freq)
    have hk' : (buildTree freq).1 = [k] := hk
    change Forest t _ (buildTree freq).2 ((buildTree freq).1.map Key.idx) tree at hf
    rw [hk'] at hf ⊢
    have hmem : k.idx ∈ [k].map Key.idx := by simp
    refine ⟨tree k.idx, hf.idx_eq hmem, hf.held _ hmem, ?_, ?_⟩
    · simpa using hf.indices
    · simpa using hf.symbols

/-- BUILD establishes the tree invariant (10_state.md R56). -/
theorem treeInv_after_build {s t : State} (h : exec .build s = .next t) : t.TreeInv := by
  obtain rfl := Host.Outcome.next.inj h
  have hle := length_presentIn_le s.freq
  rcases build_tree s.node s.freq with ⟨h0, hb⟩ | ⟨T, hroot, hheld, hind, hsym⟩
  · refine .of_emptyTree ⟨?_, ?_, ?_⟩ <;> simp [hb, h0, rootOf]
  · have hn := hind.length_eq
    have hl := hsym.length_eq
    have hcount := T.length_indices
    rw [List.length_range] at hn
    refine .of_holdsTree (T := T) rfl ⟨hroot, hheld, ?_, hsym.nodup_iff.2 (nodup_presentIn s.freq), ?_⟩
    · show T.indices.Perm (List.range (BitVec.ofNat 9 (buildTree s.freq).2.length).toNat)
      rwa [BitVec.toNat_ofNat, Nat.mod_eq_of_lt (by omega)]
    · show T.symbols.length = (BitVec.ofNat 9 (leafNodes s.freq).length).toNat
      rw [BitVec.toNat_ofNat, length_leafNodes, hl]
      omega

end Sys2Proof.Machine
end

section
/-! DESERIALIZE establishes the tree invariant: read backwards from the last record, the records from any point on are
the trees that the open child slots wait for (43_container.md R244-R247); with BUILD this proves O10. -/

namespace Sys2Proof.Machine

/-! ### Changing one node of a list -/

theorem modify_append_of_lt {α : Type} (f : α → α) (xs ys : List α) {j : Nat} (h : j < xs.length) :
    (xs ++ ys).modify j f = xs.modify j f ++ ys := by
  induction xs generalizing j with
  | nil => exact absurd h (Nat.not_lt_zero j)
  | cons x xs ih =>
    cases j with
    | zero => simp
    | succ j => simp [ih (Nat.lt_of_succ_lt_succ h)]

theorem modify_length_append {α : Type} (f : α → α) (xs ys : List α) (x : α) :
    (xs ++ x :: ys).modify xs.length f = xs ++ f x :: ys := by
  induction xs with
  | nil => simp
  | cons y xs ih => simp [ih]

/-! ### Open slots -/

/-- A place that waits for a node: the root's, or a child's of an Internal record read before. -/
inductive Slot where
  | root
  | left (parent : Nat)
  | right (parent : Nat)

/-- Put the node `c` into the slot. -/
def Slot.fill (c : NodeIdx) (ns : List Node) : Slot → List Node
  | .root => ns
  | .left j => ns.modify j (Node.withLeft c)
  | .right j => ns.modify j (Node.withRight c)

/-- Put the nodes into the slots, one into each. -/
def fillAll : List Slot → List NodeIdx → List Node → List Node
  | sl :: sls, c :: cs, ns => fillAll sls cs (sl.fill c ns)
  | _, _, ns => ns

/-- The slot is not that of a record from `n` on. -/
def Slot.below (n : Nat) : Slot → Prop
  | .root => True
  | .left j => j < n
  | .right j => j < n

@[simp] theorem Slot.length_fill (sl : Slot) (c : NodeIdx) (ns : List Node) :
    (sl.fill c ns).length = ns.length := by
  cases sl <;> simp [Slot.fill]

theorem Slot.fill_append (sl : Slot) (c : NodeIdx) (ns more : List Node) (h : sl.below ns.length) :
    sl.fill c (ns ++ more) = sl.fill c ns ++ more := by
  cases sl with
  | root => rfl
  | left j => exact modify_append_of_lt _ _ _ h
  | right j => exact modify_append_of_lt _ _ _ h

@[simp] theorem length_fillAll (sls : List Slot) (cs : List NodeIdx) (ns : List Node) :
    (fillAll sls cs ns).length = ns.length := by
  induction sls generalizing cs ns with
  | nil => simp [fillAll]
  | cons sl sls ih =>
    cases cs with
    | nil => simp [fillAll]
    | cons c cs => simp [fillAll, ih]

theorem fillAll_append (sls : List Slot) (cs : List NodeIdx) (ns more : List Node)
    (h : ∀ sl ∈ sls, sl.below ns.length) : fillAll sls cs (ns ++ more) = fillAll sls cs ns ++ more := by
  induction sls generalizing cs ns with
  | nil => simp [fillAll]
  | cons sl sls ih =>
    cases cs with
    | nil => simp [fillAll]
    | cons c cs =>
      rw [fillAll, fillAll, Slot.fill_append sl c ns more (h sl List.mem_cons_self), ih]
      intro sl' h'
      rw [Slot.length_fill]
      exact h sl' (List.mem_cons_of_mem _ h')

/-- An Internal record takes the next two nodes as its children. -/
theorem fillAll_children {sls : List Slot} (cs : List NodeIdx) (l r : NodeIdx) {ns : List Node} {n : Nat}
    (hn : n = ns.length) (h : ∀ sl ∈ sls, sl.below ns.length) :
    fillAll (.left n :: .right n :: sls) (l :: r :: cs) (ns ++ [.internal 0 0 0]) =
      fillAll sls cs ns ++ [.internal 0 l r] := by
  subst hn
  rw [fillAll, fillAll, Slot.fill, Slot.fill, modify_length_append, modify_length_append,
    ← fillAll_append _ _ _ _ h]
  rfl

/-- The entry that stands after the first `k` of the nodes written. -/
theorem nodeAt_writeNodes_split (t : Vector Node 511) {ns before rest : List Node} {n : Node} {k : Nat}
    (e : ns = before ++ n :: rest) (hk : before.length = k) (hlt : k < 511) :
    nodeAt (writeNodes t ns) (BitVec.ofNat 9 k) = some n := by
  refine nodeAt_writeNodes t hlt ?_
  rw [e, ← hk, List.getElem?_append_right le_rfl, Nat.sub_self, List.getElem?_cons_zero]

/-! ### The record loop -/

/-- The slots that are open before record `k`, the next to be filled first (R247). -/
def Parse.slots (p : Parse) : List Slot :=
  if p.k = 0 then [.root]
  else (if p.prevInternal then [.left (p.k - 1), .right (p.k - 1)] else []) ++ p.waiting.map .right

/-- What holds before each record of a tree: `need` counts the open slots, and no symbol was read twice. -/
structure Parse.Ok (p : Parse) : Prop where
  length_nodes : p.nodes.length = p.k
  need_eq : p.need = p.slots.length
  waiting_lt : ∀ j ∈ p.waiting, j < p.k
  nodup_seen : p.seen.Nodup

theorem Parse.Ok.slots_below {p : Parse} (h : p.Ok) : ∀ sl ∈ p.slots, sl.below p.k := by
  intro sl hsl
  unfold Parse.slots at hsl
  split at hsl
  · obtain rfl := List.mem_singleton.1 hsl
    trivial
  · next hk =>
    rcases List.mem_append.1 hsl with hsl | hsl
    · split at hsl
      · rcases List.mem_pair.1 hsl with rfl | rfl <;> exact Nat.sub_one_lt hk
      · cases hsl
    · obtain ⟨j, hj, rfl⟩ := List.mem_map.1 hsl
      exact h.waiting_lt j hj

/-- Linking record `k` fills the first open slot (R247). -/
theorem Parse.Ok.link_eq {p : Parse} (h : p.Ok) {sl : Slot} {rest : List Slot} (hs : p.slots = sl :: rest) :
    ∃ waiting, waiting.map .right = rest ∧ (∀ j ∈ waiting, j < p.k) ∧
      p.link = { p with nodes := sl.fill (BitVec.ofNat 9 p.k) p.nodes, waiting := waiting } := by
  unfold Parse.slots at hs
  unfold Parse.link
  by_cases hk : p.k = 0
  · have hw : p.waiting = [] := List.eq_nil_iff_forall_not_mem.2 fun j hj => by
      have := h.waiting_lt j hj
      omega
    rw [if_pos hk] at hs ⊢
    cases hs
    exact ⟨[], rfl, by simp, by rw [← hw]; rfl⟩
  · rw [if_neg hk] at hs ⊢
    by_cases hp : p.prevInternal = true
    · rw [if_pos hp] at hs ⊢
      cases hs
      refine ⟨(p.k - 1) :: p.waiting, rfl, ?_, rfl⟩
      exact List.forall_mem_cons.2 ⟨Nat.sub_one_lt hk, h.waiting_lt⟩
    · rw [if_neg hp] at hs ⊢
      cases hw : p.waiting with
      | nil => simp [hw] at hs
      | cons j js =>
        rw [hw] at hs
        cases hs
        exact ⟨js, rfl, fun i hi => h.waiting_lt i (by simp [hw, hi]), rfl⟩

/-- All that reading a record can do: with a slot open it fills the first one with record `k`,
and an Internal record opens two (R244-R247). -/
theorem Parse.Ok.readRecord_cases {bytes : List Byte} {p q : Parse} (h : p.Ok)
    (hq : p.readRecord bytes = .ok q) :
    ∃ sl rest node, p.slots = sl :: rest ∧ q.Ok ∧ q.k = p.k + 1 ∧
      q.nodes = sl.fill (BitVec.ofNat 9 p.k) p.nodes ++ [node] ∧
      ((node = .internal 0 0 0 ∧ q.slots = .left p.k :: .right p.k :: rest ∧ q.seen = p.seen ∧
          q.leaves = p.leaves) ∨
        (∃ sym, node = .leaf sym 0 ∧ q.slots = rest ∧ q.seen = sym :: p.seen ∧
          q.leaves = p.leaves + 1)) := by
  have hneed := h.need_eq
  unfold Parse.readRecord at hq
  split at hq
  · cases hq
  · next hn =>
    obtain ⟨sl, rest, hs⟩ := List.exists_cons_of_length_pos (by omega : 0 < p.slots.length)
    obtain ⟨waiting, hw, hlt, hlink⟩ := h.link_eq hs
    have hrest : rest.length = waiting.length := by rw [← hw, List.length_map]
    rw [hs, List.length_cons] at hneed
    rw [hlink] at hq
    split at hq
    · cases hq
    · split at hq
      · cases hq
        refine ⟨sl, rest, .internal 0 0 0, hs, ⟨?_, ?_, ?_, h.nodup_seen⟩, rfl, rfl,
          .inl ⟨rfl, ?_, rfl, rfl⟩⟩
        · simp [h.length_nodes]
        · simp [Parse.slots, hneed, hrest]
        · exact fun j hj => Nat.lt_succ_of_lt (hlt j hj)
        · simp [Parse.slots, hw]
      · split at hq
        · split at hq
          · cases hq
          · next sym _ =>
            split at hq
            · cases hq
            · next hseen =>
              cases hq
              refine ⟨sl, rest, .leaf sym 0, hs, ⟨?_, ?_, ?_, ?_⟩, rfl, rfl,
                .inr ⟨sym, rfl, ?_, rfl, rfl⟩⟩
              · simp [h.length_nodes]
              · simp [Parse.slots, hneed, hrest]
              · exact fun j hj => Nat.lt_succ_of_lt (hlt j hj)
              · exact List.nodup_cons.2 ⟨by simpa using hseen, h.nodup_seen⟩
              · simp [Parse.slots, hw]
        · cases hq

theorem Parse.Ok.readRecords {bytes : List Byte} {left : Nat} {p q : Parse} (h : p.Ok)
    (hq : Machine.readRecords bytes left p = .ok q) : q.Ok ∧ q.k = p.k + left := by
  induction left generalizing p with
  | zero =>
    cases hq
    exact ⟨h, rfl⟩
  | succ left ih =>
    rw [Machine.readRecords] at hq
    split at hq
    · cases hq
    · next p' hp' =>
      obtain ⟨sl, rest, node, -, hok, hk, -, -⟩ := h.readRecord_cases hp'
      obtain ⟨hok', hk'⟩ := ih hok hq
      exact ⟨hok', by omega⟩

/-- From `p` on the trees `F` were read, one for each open slot, in the entries `rest`,
and the record loop ended in `q`. -/
structure Parse.Reads (t : Vector Node 511) (p q : Parse) (F : List Tree) (rest : List Node) : Prop where
  length_eq : F.length = p.slots.length
  nodes_eq : q.nodes = fillAll p.slots (F.map Tree.idx) p.nodes ++ rest
  indices_eq : F.flatMap Tree.indices = List.range' p.k rest.length
  held : ∀ T ∈ F, T.heldBy (writeNodes t q.nodes)
  seen_eq : q.seen = (F.flatMap Tree.symbols).reverse ++ p.seen
  leaves_eq : q.leaves = p.leaves + (F.flatMap Tree.symbols).length

/-- The records left are the trees the open slots wait for, when none is open at the end. -/
theorem Parse.Ok.reads (t : Vector Node 511) {bytes : List Byte} {left : Nat} {p q : Parse} (h : p.Ok)
    (hq : Machine.readRecords bytes left p = .ok q) (hneed : q.need = 0) (hlen : q.k ≤ 511) :
    ∃ F rest, Parse.Reads t p q F rest := by
  induction left generalizing p with
  | zero =>
    cases hq
    have hs : q.slots = [] := List.length_eq_zero_iff.1 (h.need_eq ▸ hneed)
    exact ⟨[], [], by simp [hs], by simp [hs, fillAll], rfl, by simp, rfl, rfl⟩
  | succ left ih =>
    rw [Machine.readRecords] at hq
    split at hq
    · cases hq
    · next p' hp' =>
      obtain ⟨sl, slots, node, hs, hok, hk, hnodes, hcase⟩ := h.readRecord_cases hp'
      have hklt : p.k < 511 := by
        have := (hok.readRecords hq).2
        omega
      have hkidx : (BitVec.ofNat 9 p.k).toNat = p.k := by
        rw [BitVec.toNat_ofNat]
        omega
      obtain ⟨F, rest, hl, hn, hi, hh, hse, hle⟩ := ih hok hq
      rw [hnodes] at hn
      have hX : (sl.fill (BitVec.ofNat 9 p.k) p.nodes).length = p.k := by
        rw [Slot.length_fill, h.length_nodes]
      have hbelow : ∀ sl' ∈ slots, sl'.below (sl.fill (BitVec.ofNat 9 p.k) p.nodes).length := by
        intro sl' h'
        rw [hX]
        exact h.slots_below sl' (by simp [hs, h'])
      rcases hcase with ⟨rfl, hs', hseen, hleaves⟩ | ⟨sym, rfl, hs', hseen, hleaves⟩
      · obtain ⟨L, R, F, rfl⟩ : ∃ L R F', F = L :: R :: F' := by
          match F, hs' ▸ hl with
          | L :: R :: F', _ => exact ⟨L, R, F', rfl⟩
        rw [hs', List.map_cons, List.map_cons, fillAll_children _ _ _ hX.symm hbelow, List.append_assoc] at hn
        obtain ⟨hL, hR, hh⟩ := by simpa using hh
        have hnode := nodeAt_writeNodes_split t hn (by simp [h.length_nodes]) hklt
        refine ⟨.node (BitVec.ofNat 9 p.k) 0 L R :: F, .internal 0 L.idx R.idx :: rest, ?_, ?_, ?_, ?_, ?_, ?_⟩
        · simpa [hs, hs'] using hl
        · rw [hs]
          exact hn
        · simpa [Tree.indices, hkidx, hk, List.range'_succ] using hi
        · exact List.forall_mem_cons.2 ⟨⟨hnode, hL, hR⟩, hh⟩
        · simpa [Tree.symbols, hseen] using hse
        · simpa [Tree.symbols, hleaves, Nat.add_assoc] using hle
      · rw [hs', fillAll_append _ _ _ _ hbelow, List.append_assoc] at hn
        have hleaf := nodeAt_writeNodes_split t hn (by simp [h.length_nodes]) hklt
        refine ⟨.leaf (BitVec.ofNat 9 p.k) sym 0 :: F, .leaf sym 0 :: rest, ?_, ?_, ?_, ?_, ?_, ?_⟩
        · simp [hs, hl, hs']
        · rw [hs]
          exact hn
        · simp [Tree.indices, hkidx, hi, hk, List.range'_succ]
        · exact List.forall_mem_cons.2 ⟨hleaf, hh⟩
        · simp [Tree.symbols, hse, hseen]
        · rw [hle, hleaves, List.flatMap_cons, Tree.symbols, List.length_append, List.length_singleton, Nat.add_assoc]

/-! ### What DESERIALIZE loads -/

theorem Parse.ok_start {pos count : Nat} (h : 0 < count) : (Parse.start pos count).Ok :=
  ⟨rfl, if_pos h, fun _ hj => (List.not_mem_nil hj).elim, List.nodup_nil⟩

/-- The records of an accepted artifact are no node at all, or a tree of distinct symbols in pre-order from NODE[0] on
(R244-R247). -/
theorem parseTree_tree (t : Vector Node 511) {bytes : List Byte} {q : Parse} (h : parseTree bytes = .ok q) :
    (q.nodes = [] ∧ q.leaves = 0) ∨
    ∃ T : Tree, T.idx = 0#9 ∧ T.heldBy (writeNodes t q.nodes) ∧ T.indices = List.range q.nodes.length ∧
      T.symbols.Nodup ∧ T.symbols.length = q.leaves ∧ q.nodes.length ≤ 511 := by
  unfold parseTree at h
  split at h
  · cases h
  · split at h
    · cases h
    · split at h
      · cases h
      · next count pos _ =>
        split at h
        · cases h
        · next hcount =>
          split at h
          · cases h
          · next p hread =>
            split at h
            · cases h
            · next hneed =>
              obtain rfl := Except.ok.inj h
              rcases Nat.eq_zero_or_pos count with rfl | hpos
              · cases hread
                exact .inl ⟨rfl, rfl⟩
              · have hstart := Parse.ok_start (pos := pos) hpos
                obtain ⟨hok, hk⟩ := hstart.readRecords hread
                have hk' : p.k = count := by simpa [Parse.start] using hk
                obtain ⟨F, rest, hl, hn, hi, hh, hse, hle⟩ :=
                  hstart.reads t hread (Decidable.not_not.1 hneed) (by omega)
                obtain ⟨T, rfl⟩ := List.length_eq_one_iff.1 hl
                have hrest : p.nodes = rest := by simpa [Parse.slots, Parse.start, fillAll, Slot.fill] using hn
                have hind : T.indices = List.range p.nodes.length := by
                  simpa [Parse.start, hrest, List.range_eq_range'] using hi
                have hseen := hok.nodup_seen
                rw [hse] at hseen
                refine .inr ⟨T, ?_, hh T List.mem_cons_self, hind, ?_, ?_, ?_⟩
                · have hhead := congrArg List.head? hind
                  rw [T.indices_eq_cons, hok.length_nodes, hk', List.head?_range, if_neg hpos.ne'] at hhead
                  exact BitVec.eq_of_toNat_eq (Option.some.inj hhead)
                · simpa [Parse.start] using hseen
                · simpa [Parse.start] using hle.symm
                · rw [hok.length_nodes]
                  omega

theorem parseArtifact_parseTree {bytes : List Byte} {a : Loaded} (h : parseArtifact bytes = .ok a) :
    ∃ p, parseTree bytes = .ok p ∧ a.nodes = p.nodes ∧ a.leaves = p.leaves := by
  unfold parseArtifact at h
  split at h
  · cases h
  · next p hp =>
    split at h
    · cases h
    · split at h
      · cases h
      · split at h
        · cases h
        · cases h
          exact ⟨p, hp, rfl, rfl⟩

/-- DESERIALIZE keeps the tree, loses it (R253), or loads one (R252). -/
theorem State.TreeInv.after_deserialize {s t : State} (h : s.TreeInv) (ht : exec .deserialize s = .next t) :
    t.TreeInv := by
  rcases execDeserialize_cases ht with ⟨e, -, rfl⟩ | ⟨-, e, rfl⟩ | ⟨-, a, ha, -, rfl⟩
  · exact h.of_sameTree (s.sameTree_raise e)
  · have hlost : s.loseTree.TreeInv := .of_emptyTree ⟨rfl, rfl, rfl⟩
    exact hlost.of_sameTree (s.loseTree.sameTree_raise e)
  · obtain ⟨p, hp, hnodes, hleaves⟩ := parseArtifact_parseTree ha
    rcases parseTree_tree s.node hp with ⟨hn, hl⟩ | ⟨T, hidx, hheld, hind, hnd, hlen, hle⟩
    · refine .of_emptyTree ⟨?_, rfl, ?_⟩ <;> simp [hnodes, hleaves, hn, hl]
    · have hcount := T.length_indices
      rw [hind, List.length_range] at hcount
      rw [← hnodes] at hheld hind hle hcount
      rw [← hleaves] at hlen
      refine .of_holdsTree (T := T) rfl ⟨hidx, hheld, ?_, hnd, ?_⟩
      · show T.indices.Perm (List.range (BitVec.ofNat 9 a.nodes.length).toNat)
        rw [BitVec.toNat_ofNat, Nat.mod_eq_of_lt (by omega), hind]
      · show T.symbols.length = (BitVec.ofNat 9 a.leaves).toNat
        rw [BitVec.toNat_ofNat, hlen]
        omega

/-! ### The tree invariant -/

theorem State.TreeInv.after_exec {i : Instr} {s t : State} (h : s.TreeInv) (ht : exec i s = .next t) :
    t.TreeInv := by
  by_cases hb : i = .build
  · subst hb
    exact treeInv_after_build ht
  · by_cases hd : i = .deserialize
    · subst hd
      exact h.after_deserialize ht
    · exact h.of_sameTree (exec_sameTree hb hd ht)

theorem State.TreeInv.after_hostWrite {s : State} (h : s.TreeInv) (n : Size) (off : Offset) (v : Word) :
    (s.hostWrite n off v).TreeInv := by
  rcases s.hostWrite_tables n off v with ⟨-, -, e⟩ | ⟨e, -⟩
  · rw [e]
    exact .of_emptyTree ⟨rfl, rfl, rfl⟩
  · exact h.of_sameTree e

/-- Settles O10: BUILD and DESERIALIZE make a tree, a failing DESERIALIZE and the resets make it the empty one,
and nothing else writes NODE or its counts. -/
theorem stepKeepsTreeInvariant : Obligations.StepKeepsTreeInvariant := by
  intro s t h ht
  refine step_keeps (P := State.TreeInv) ?_ ?_ ?_ ?_ ?_ h ht
  · exact fun s ev d w h => h
  · exact fun s n off v h => h.after_hostWrite n off v
  · exact fun s h => .of_emptyTree ⟨rfl, rfl, rfl⟩
  · exact fun i s t h ht => h.after_exec ht
  · exact fun s w h => h

end Sys2Proof.Machine
end

section
/-! The proof of O11: the table GENLUT writes holds the code of every symbol of the tree, and nothing else sets
LUT_VALID (10_state.md R59, 41_encoder.md R180-R182). -/

namespace Sys2Proof.Machine

/-! ### The codes GENLUT writes -/

/-- Give a symbol its code. -/
def setCode (t : Vector Code 256) (p : Symbol × Code) : Vector Code 256 := t.set p.1.toNat p.2

/-- With each symbol named once, a table filled in from a list holds the codes listed. -/
theorem codeAt_foldl_setCode (ps : List (Symbol × Code)) (t : Vector Code 256) (h : (ps.map Prod.fst).Nodup)
    (sym : Symbol) :
    codeAt (ps.foldl setCode t) sym = ((ps.find? fun p => p.1 == sym).map Prod.snd).getD (codeAt t sym) := by
  induction ps generalizing t with
  | nil => rfl
  | cons p ps ih =>
    obtain ⟨hp, hps⟩ := List.nodup_cons.1 h
    rw [List.foldl_cons, ih _ hps, setCode, codeAt_set, List.find?_cons]
    by_cases he : p.1 = sym
    · have hnone : ps.find? (fun q => q.1 == sym) = none :=
        List.find?_eq_none.2 fun q hq h' => hp (List.mem_map.2 ⟨q, hq, (eq_of_beq h').trans he.symm⟩)
      simp [he, hnone]
    · simp [he, beq_eq_false_iff_ne.2 he]

theorem Tree.map_fst_paths (T : Tree) : T.paths.map Prod.fst = T.symbols := by
  induction T with
  | leaf => rfl
  | node i w l r ihl ihr =>
    simp only [Tree.paths, Tree.symbols, List.map_append, List.map_map, ← ihl, ← ihr]
    rfl

/-- Recording the visits of a tree is recording its paths, behind the branches to its root (R181). -/
theorem Tree.foldl_recordCode_visitsFrom (T : Tree) (c : Code) (t : Vector Code 256) :
    (T.visitsFrom c).foldl recordCode t = (T.paths.map fun p => (p.1, c ++ p.2)).foldl setCode t := by
  induction T generalizing c t with
  | leaf i sym w => simp [Tree.visitsFrom, Tree.paths, recordCode, setCode]
  | node i w l r ihl ihr =>
    simp [Tree.visitsFrom, Tree.paths, recordCode, ihl, ihr, List.foldl_append, Function.comp_def]

theorem Tree.codeOf_node (i : NodeIdx) (w : Weight) (l r : Tree) (sym : Symbol) :
    (Tree.node i w l r).codeOf sym =
      (((Tree.node i w l r).paths.find? fun p => p.1 == sym).map Prod.snd).getD [] := by
  rw [Tree.codeOf]
  cases (Tree.node i w l r).paths.find? fun p => p.1 == sym <;> rfl

/-- The table of a tree with distinct symbols holds its codes (R181, R182). -/
theorem codeAt_lutOf_visitsFrom (T : Tree) (h : T.symbols.Nodup) (sym : Symbol) :
    codeAt (lutOf (T.visitsFrom [])) sym = T.codeOf sym := by
  cases T with
  | leaf i a w =>
    simp only [Tree.visitsFrom, lutOf, codeAt_set, codeAt_replicate, Tree.codeOf, eq_comm]
  | node i w l r =>
    rw [← Tree.map_fst_paths] at h
    have hlut : lutOf ((Tree.node i w l r).visitsFrom []) =
        ((Tree.node i w l r).visitsFrom []).foldl recordCode (Vector.replicate 256 []) := by
      unfold lutOf
      split
      · next he => cases he
      · rfl
    rw [hlut, Tree.foldl_recordCode_visitsFrom, codeAt_foldl_setCode _ _ (by simpa using h),
      codeAt_replicate, Tree.codeOf_node]
    simp

/-! ### The invariant -/

theorem State.holdsCodes.of_eq {s t : State} (h : s.holdsCodes) (e : s.sameTree t) (el : t.lut = s.lut) :
    t.holdsCodes := by
  unfold State.holdsCodes
  rw [el]
  exact h.imp (fun ⟨h0, hc⟩ => ⟨h0.of_sameTree e, hc⟩) (fun ⟨T, hT, hc⟩ => ⟨T, hT.of_sameTree e, hc⟩)

theorem State.LutInv.of_eq {s t : State} (h : s.LutInv) (hv : t.lutValid = true → s.lutValid = true)
    (e : s.sameTree t) (el : t.lut = s.lut) : t.LutInv := by
  intro ht
  obtain ⟨hvalid, hcodes⟩ := h (hv ht)
  obtain ⟨htree, -⟩ := id e
  exact ⟨htree.trans hvalid, hcodes.of_eq e el⟩

theorem State.LutInv.of_invalid {s : State} (h : s.lutValid = false) : s.LutInv :=
  fun hv => (Bool.false_ne_true (h ▸ hv)).elim

/-- GENLUT writes the codes of the current tree (R180). -/
theorem State.holdsCodes_genlut {s t : State} (hT : s.TreeInv) (hv : s.treeValid = true) {vs : List Visit}
    (hvs : s.treeVisits = some vs) (e : s.sameTree t) (el : t.lut = lutOf vs) : t.holdsCodes := by
  unfold State.holdsCodes
  rw [el]
  rcases hT.1 hv with h0 | ⟨T, hT⟩
  · rw [State.treeVisits_emptyTree h0] at hvs
    cases hvs
    exact .inl ⟨h0.of_sameTree e, codeAt_replicate []⟩
  · rw [State.treeVisits_holdsTree hT] at hvs
    cases hvs
    obtain ⟨-, -, -, hnd, -⟩ := id hT
    exact .inr ⟨T, hT.of_sameTree e, codeAt_lutOf_visitsFrom T hnd⟩

theorem State.LutInv.after_exec {i : Instr} {s t : State} (h : s.LutInv) (hT : s.TreeInv)
    (ht : exec i s = .next t) : t.LutInv := by
  by_cases hi : i = .genlut
  · subst hi
    rcases execGenlut_cases ht with ⟨-, rfl⟩ | ⟨hv, vs, hvs, rfl⟩
    · exact h.of_eq (fun hv => (s.sameCodes_raise _).1 ▸ hv) (s.sameTree_raise _) (s.raise_lut _)
    · exact fun _ => ⟨hv, State.holdsCodes_genlut hT hv hvs ⟨rfl, rfl, rfl, rfl, rfl⟩ rfl⟩
  · cases hv : t.lutValid with
    | false => exact .of_invalid hv
    | true =>
      obtain ⟨hs, e⟩ := exec_lutValid hi ht hv
      exact h.of_eq (fun _ => hs) e (exec_lut_of_ne_genlut hi ht)

theorem State.LutInv.after_hostWrite {s : State} (h : s.LutInv) (n : Size) (off : Offset) (v : Word) :
    (s.hostWrite n off v).LutInv := by
  rcases s.hostWrite_tables n off v with ⟨-, -, e⟩ | ⟨hT, hvalid, hlut⟩
  · rw [e]
    exact .of_invalid rfl
  · exact h.of_eq (fun hv => hvalid ▸ hv) hT hlut

/-- Settles O11: GENLUT alone sets LUT_VALID, over the codes of the tree, and what writes the tree clears it.
The induction carries the tree invariant along (O10). -/
theorem stepKeepsLutInvariant : Obligations.StepKeepsLutInvariant := by
  intro s t hT h ht
  refine (step_keeps (P := fun s => s.TreeInv ∧ s.LutInv) ?_ ?_ ?_ ?_ ?_ ⟨hT, h⟩ ht).2
  · exact fun s ev d w h => h
  · exact fun s n off v ⟨hT, h⟩ => ⟨hT.after_hostWrite n off v, h.after_hostWrite n off v⟩
  · exact fun s _ => ⟨.of_emptyTree ⟨rfl, rfl, rfl⟩, .of_invalid rfl⟩
  · exact fun i s t ⟨hT, h⟩ ht => ⟨hT.after_exec ht, h.after_exec hT ht⟩
  · exact fun s w h => h

end Sys2Proof.Machine
end

section
/-! The host view of the registers and tables: reads and idle writes at each offset (O49, O52, O53, O54, O56, O57). -/

namespace Sys2Proof.Machine

/-! ### Transactions by target -/

theorem State.hostRead_reg (s : State) (r : Reg) :
    s.hostRead .four r.offset = if s.isBusy then s.readRegBusy r else (s.regWord r, s) := by
  rw [State.hostRead, target_reg]

/-- A register that no command writes reads exactly in every phase (10_state.md R62). -/
theorem State.hostRead_reg_exact (s : State) {r : Reg} (h : r.isOutput = false) (hs : r ≠ .status) :
    s.hostRead .four r.offset = (s.regWord r, s) := by
  rw [State.hostRead_reg]
  split
  · simp [State.readRegBusy, h, hs]
  · rfl

/-- An output register reads a fresh free word while busy (R62). -/
theorem State.hostRead_reg_busy (s : State) {r : Reg} (hb : s.isBusy = true) (h : r.isOutput = true) :
    s.hostRead .four r.offset = s.drawWord := by
  rw [State.hostRead_reg, if_pos hb, State.readRegBusy, if_pos h]

theorem State.hostRead_reg_idle (s : State) (r : Reg) (hb : s.isBusy = false) :
    s.hostRead .four r.offset = (s.regWord r, s) := by
  rw [State.hostRead_reg, hb]
  rfl

theorem State.hostWrite_reg_idle (s : State) (r : Reg) (v : Word) (h : s.phase = .idle) :
    s.hostWrite .four r.offset v = s.writeReg r v := by
  simp [State.hostWrite, State.isBusy_eq_false.2 h, State.hostWriteIdle, target_reg]

/-- A word written at CTRL is written in every phase (10_state.md R35, 20_memory.md R93). -/
theorem State.hostWrite_ctrl (s : State) (v : Word) : s.hostWrite .four Reg.ctrl.offset v = s.writeCtrl v := by
  cases hb : s.isBusy with
  | true => simp [State.hostWrite, hb, State.hostWriteBusy, target_reg]
  | false => simp [State.hostWrite, hb, State.hostWriteIdle, target_reg, State.writeReg]

theorem State.hostRead_freqWindow (s : State) (sym : Symbol) :
    s.hostRead .four (BitVec.ofNat 17 (0x400 + 4 * sym.toNat)) = (freqAt s.freq sym, s) := by
  rw [State.hostRead, target_freq]

theorem State.hostWrite_freq_idle (s : State) (sym : Symbol) (v : Word) (h : s.phase = .idle) :
    s.hostWrite .four (BitVec.ofNat 17 (0x400 + 4 * sym.toNat)) v =
      { s with freq := s.freq.set sym.toNat v } := by
  simp [State.hostWrite, State.isBusy_eq_false.2 h, State.hostWriteIdle, target_freq]

/-- Settles O49: a word at 0x008 is CTRL in every phase, and a read of it is IRQ_EN in bit 3. -/
theorem ctrlWriteActs : Obligations.CtrlWriteActs := by
  intro s w
  refine ⟨fun h => ?_, fun h => ?_, ?_⟩
  · exact (s.hostWrite_ctrl w).trans (if_pos h)
  · refine (s.hostWrite_ctrl w).trans ?_
    rcases s.writeCtrl_cases w with ⟨h', -⟩ | ⟨-, e⟩
    · rw [h] at h'
      cases h'
    · exact e
  · refine (s.hostRead_reg_exact (r := .ctrl) rfl nofun).trans ?_
    cases hirq : s.irqEn <;> simp [State.regWord, State.ctrlWord, flagBit, hirq]

/-! ### Words made of fields -/

/-- Two bit fields side by side, as a number. -/
theorem toNat_append_eq {m n : Nat} (x : BitVec m) (y : BitVec n) :
    (x ++ y).toNat = x.toNat * 2 ^ n + y.toNat := by
  rw [BitVec.toNat_append, ← Nat.shiftLeft_add_eq_or_of_lt y.isLt, Nat.shiftLeft_eq]

/-- ERRCODE as a number: CODE and 256 times SUB (10_state.md R44). -/
theorem State.errCodeWord_eq (s : State) :
    s.errCodeWord = BitVec.ofNat 32 (s.errCode.value.toNat + 256 * s.errSub.toNat) := by
  apply BitVec.eq_of_toNat_eq
  have h1 := s.errSub.isLt
  have h2 := s.errCode.value.isLt
  rw [State.errCodeWord, toNat_append_eq, toNat_append_eq, BitVec.toNat_ofNat, BitVec.toNat_ofNat]
  omega

/-- Settles O52: each offset is one register or FREQ entry; the outputs alone read free words while busy. -/
theorem registerReads : Obligations.RegisterReads := by
  intro s
  refine ⟨s.hostRead_reg_exact (r := .id) rfl nofun, s.hostRead_reg_exact (r := .version) rfl nofun,
    s.hostRead_reg_exact (r := .cmd) rfl nofun, ?_, s.hostRead_reg_exact (r := .errInfo) rfl nofun,
    s.hostRead_reg_exact (r := .srcAddr) rfl nofun, s.hostRead_reg_exact (r := .srcLen) rfl nofun,
    s.hostRead_reg_exact (r := .dstAddr) rfl nofun, s.hostRead_reg_exact (r := .dstCap) rfl nofun,
    s.hostRead_freqWindow, fun hb => ?_, fun hb off hoff => ?_⟩
  · refine (s.hostRead_reg_exact (r := .errCode) rfl nofun).trans ?_
    rw [State.regWord, s.errCodeWord_eq]
    cases s.errCode <;> rfl
  · have hcount : ∀ c : NodeIdx, BitVec.ofNat 32 c.toNat = c.setWidth 32 := fun c => BitVec.ofNat_toNat 32 c
    rw [hcount, hcount, hcount]
    exact ⟨s.hostRead_reg_idle .outLen hb, s.hostRead_reg_idle .bitCount hb, s.hostRead_reg_idle .nodeCount hb,
      s.hostRead_reg_idle .root hb, s.hostRead_reg_idle .leafCount hb⟩
  · have houtput : ∃ r : Reg, r.isOutput = true ∧ r.offset = off := by
      simp only [List.mem_cons, List.not_mem_nil, or_false] at hoff
      rcases hoff with rfl | rfl | rfl | rfl | rfl
      · exact ⟨.outLen, rfl, rfl⟩
      · exact ⟨.bitCount, rfl, rfl⟩
      · exact ⟨.nodeCount, rfl, rfl⟩
      · exact ⟨.root, rfl, rfl⟩
      · exact ⟨.leafCount, rfl, rfl⟩
    obtain ⟨r, hr, rfl⟩ := houtput
    exact s.hostRead_reg_busy hb hr

/-! ### STATUS -/

/-- A flag stands at its bit alone. -/
theorem getLsbD_flagBit (b : Bool) {i : Nat} (hi : i < 32) (j : Nat) :
    (flagBit b i).getLsbD j = (b && decide (j = i)) := by
  cases b with
  | false => simp [flagBit]
  | true =>
    change (BitVec.twoPow 32 i).getLsbD j = _
    rw [BitVec.getLsbD_twoPow]
    simp [hi, eq_comm]

/-- A read of STATUS gives its word with TREE_VALID and LUT_VALID bits that are exact while idle
(10_state.md R37, R62). -/
theorem State.hostRead_status (s : State) : ∃ tv lv,
    (s.hostRead .four 0x010#17).1 = s.statusWordWith tv lv ∧
      (s.isBusy = false → tv = s.treeValid ∧ lv = s.lutValid) := by
  have h : s.hostRead .four 0x010#17 =
      if s.isBusy then s.readRegBusy .status else (s.regWord .status, s) := s.hostRead_reg .status
  rw [h]
  cases s.isBusy with
  | true => exact ⟨_, _, rfl, nofun⟩
  | false => exact ⟨_, _, rfl, fun _ => ⟨rfl, rfl⟩⟩

/-- Settles O53: STATUS is six flags, each at its bit. -/
theorem statusReads : Obligations.StatusReads := by
  intro s
  obtain ⟨tv, lv, hword, hidle⟩ := s.hostRead_status
  have hbit : ∀ i, (s.hostRead .four 0x010#17).1.getLsbD i =
      (s.isBusy && decide (i = 0) || s.done && decide (i = 1) || s.errFlag && decide (i = 2) ||
        tv && decide (i = 3) || lv && decide (i = 4) || s.overrun && decide (i = 5)) := by
    intro i
    rw [hword, State.statusWordWith]
    simp only [BitVec.getLsbD_or, getLsbD_flagBit _ (by decide : 0 < 32), getLsbD_flagBit _ (by decide : 1 < 32),
      getLsbD_flagBit _ (by decide : 2 < 32), getLsbD_flagBit _ (by decide : 3 < 32),
      getLsbD_flagBit _ (by decide : 4 < 32), getLsbD_flagBit _ (by decide : 5 < 32)]
  simp only [hbit]
  refine ⟨by simpa using State.isBusy_eq_true, by simp, by simp [State.errFlag], by simp,
    fun hb => ?_, fun i hi => ?_⟩
  · obtain ⟨rfl, rfl⟩ := hidle hb
    simp
  · simp [show i ≠ 0 by omega, show i ≠ 1 by omega, show i ≠ 2 by omega, show i ≠ 3 by omega,
      show i ≠ 4 by omega, show i ≠ 5 by omega]

/-! ### Writes while idle -/

/-- A window from NODE on is read-only (20_memory.md R83). -/
theorem State.hostWrite_tables_ignored (s : State) (n : Size) {off : Offset} (v : Word) (hb : s.isBusy = false)
    (hlo : 0x1000 ≤ off.toNat) (hhi : off.toNat < 0x8000) : s.hostWrite n off v = s := by
  have hreg : ∀ r, target s.cfg n off ≠ .reg r := by
    intro r h
    obtain ⟨-, rfl⟩ := target_eq_reg_iff.1 h
    cases r <;> simp [Reg.offset] at hlo
  rcases s.hostWrite_cases n off v with ⟨h, -⟩ | ⟨h, -⟩ | ⟨-, r, h, -⟩ | ⟨-, sym, h, -⟩ | ⟨-, k, h, -⟩ |
    ⟨-, e⟩
  · exact absurd h (hreg _)
  · rw [hb] at h
    cases h
  · exact absurd h (hreg r)
  · obtain ⟨-, rfl⟩ := target_eq_freq h
    have := sym.isLt
    rw [BitVec.toNat_ofNat] at hlo
    omega
  · obtain ⟨h, -⟩ := target_eq_dmem h
    omega
  · exact e

/-- Settles O54: each offset is one register or FREQ entry, and the windows from NODE on are read-only. -/
theorem idleRegisterWrites : Obligations.IdleRegisterWrites := by
  intro s v hp
  refine ⟨s.hostWrite_reg_idle .srcAddr v hp, s.hostWrite_reg_idle .srcLen v hp,
    s.hostWrite_reg_idle .dstAddr v hp, s.hostWrite_reg_idle .dstCap v hp, s.hostWrite_reg_idle .bitCount v hp,
    fun sym => s.hostWrite_freq_idle sym v hp, fun off hoff => ?_,
    fun n off hlo hhi => s.hostWrite_tables_ignored n v (State.isBusy_eq_false.2 hp) hlo hhi⟩
  simp only [List.mem_cons, List.not_mem_nil, or_false] at hoff
  rcases hoff with rfl | rfl | rfl | rfl | rfl | rfl | rfl | rfl | rfl
  · exact s.hostWrite_reg_idle .id v hp
  · exact s.hostWrite_reg_idle .version v hp
  · exact s.hostWrite_reg_idle .status v hp
  · exact s.hostWrite_reg_idle .errCode v hp
  · exact s.hostWrite_reg_idle .errInfo v hp
  · exact s.hostWrite_reg_idle .outLen v hp
  · exact s.hostWrite_reg_idle .nodeCount v hp
  · exact s.hostWrite_reg_idle .root v hp
  · exact s.hostWrite_reg_idle .leafCount v hp

/-! ### NODE -/

/-- While busy, and from NODE_COUNT on, an entry reads as a fresh free word (10_state.md R55, R62). -/
theorem State.hostRead_nodeWindow_free (s : State) {i k : Nat} (hi : i < 511) (hk : k < 4)
    (h : s.isBusy = true ∨ s.nodeCount.toNat ≤ i) :
    s.hostRead .four (BitVec.ofNat 17 (0x1000 + 16 * i + 4 * k)) = s.drawWord := by
  have hidx : (BitVec.ofNat 9 i).toNat = i := by
    rw [BitVec.toNat_ofNat]
    omega
  rw [State.hostRead, target_node s.cfg hi hk]
  by_cases hb : s.isBusy = true
  · exact if_pos hb
  · exact (if_neg hb).trans (if_pos (by rw [hidx]; exact h.resolve_left hb))

/-- While idle a node of the tree reads as its entry (R55). -/
theorem State.hostRead_nodeWindow_entry (s : State) {i k : Nat} {n : Node} (hk : k < 4) (hb : s.isBusy = false)
    (hi : i < s.nodeCount.toNat) (hn : s.node[i]? = some n) :
    s.hostRead .four (BitVec.ofNat 17 (0x1000 + 16 * i + 4 * k)) = (nodeWord n k, s) := by
  have hlt : i < 511 := by
    obtain ⟨h, -⟩ := Vector.getElem?_eq_some_iff.1 hn
    exact h
  have hidx : (BitVec.ofNat 9 i).toNat = i := by
    rw [BitVec.toNat_ofNat]
    omega
  have hcount : ¬ s.nodeCount.toNat ≤ i := Nat.not_le.2 hi
  simp [State.hostRead, target_node s.cfg hlt hk, hb, nodeAt, hidx, hcount, hn]

/-- Word 0 of a Leaf entry: the tag, and the symbol above it. -/
theorem nodeWord_leaf_zero (sym : Symbol) (w : Weight) :
    nodeWord (.leaf sym w) 0 = BitVec.ofNat 32 (1 + 256 * sym.toNat) := by
  apply BitVec.eq_of_toNat_eq
  have h := sym.isLt
  rw [nodeWord, toNat_append_eq, toNat_append_eq, BitVec.toNat_ofNat, BitVec.toNat_ofNat, BitVec.toNat_ofNat]
  omega

/-- Word 1 of an Internal entry: the left child, and the right child 16 bits above it. -/
theorem nodeWord_internal_one (w : Weight) (l r : NodeIdx) :
    nodeWord (.internal w l r) 1 = BitVec.ofNat 32 (l.toNat + 2 ^ 16 * r.toNat) := by
  apply BitVec.eq_of_toNat_eq
  have hl := l.isLt
  have hr := r.isLt
  rw [nodeWord, toNat_append_eq, toNat_append_eq, toNat_append_eq, BitVec.toNat_ofNat, BitVec.toNat_ofNat]
  omega

/-- Words 2 and 3 of an entry: the weight, low part first. -/
theorem nodeWord_weight (n : Node) :
    nodeWord n 2 = BitVec.ofNat 32 (n.weight.toNat % 2 ^ 32) ∧
      nodeWord n 3 = BitVec.ofNat 32 (n.weight.toNat / 2 ^ 32) := by
  constructor
  · apply BitVec.eq_of_toNat_eq
    simp [nodeWord]
  · apply BitVec.eq_of_toNat_eq
    simp [nodeWord, Nat.shiftRight_eq_div_pow]

/-- Settles O56: entry `i` starts 16 * i bytes into the window, and its words are the fields of the entry. -/
theorem nodeWindow : Obligations.NodeWindow := by
  intro s i k hk
  refine ⟨fun n hp hi hn => ?_, fun hi hfree => s.hostRead_nodeWindow_free hi hk hfree, ?_⟩
  · rw [s.hostRead_nodeWindow_entry hk (State.isBusy_eq_false.2 hp) hi hn, Prod.mk.injEq]
    refine ⟨?_, rfl⟩
    interval_cases k
    · cases n with
      | leaf sym w => exact nodeWord_leaf_zero sym w
      | internal w l r => rfl
    · cases n with
      | leaf sym w => rfl
      | internal w l r => exact nodeWord_internal_one w l r
    · exact (nodeWord_weight n).1
    · exact (nodeWord_weight n).2
  · rintro rfl
    rw [State.hostRead, target_past_node s.cfg hk]

/-! ### LUT -/

/-- A word put together bit by bit from the top has those bits. -/
theorem getLsbD_foldl_bits {w n i : Nat} (f : Nat → Bool) (hn : n ≤ w + 1) (hi : i ≤ w) :
    ((List.range n).foldl (fun v m => if f m then v + (1#(w + 1) <<< (w - m)) else v) 0#(w + 1)).getLsbD i =
      (decide (w - i < n) && f (w - i)) := by
  induction n generalizing i with
  | zero => simp
  | succ n ih =>
    rw [List.range_succ, List.foldl_append, List.foldl_cons, List.foldl_nil]
    generalize (List.range n).foldl _ 0#(w + 1) = v at ih ⊢
    have hlast : w - i < n + 1 ↔ w - i < n ∨ i = w - n := by omega
    cases hf : f n with
    | false =>
      rw [if_neg (by simp), ih (by omega) hi]
      by_cases he : i = w - n
      · simp [show w - i = n by omega, hf]
      · simp [hlast, he]
    | true =>
      have hfree : v &&& BitVec.twoPow (w + 1) (w - n) = 0#(w + 1) := by
        rw [BitVec.and_twoPow, ih (by omega) (by omega)]
        simp [show w - (w - n) = n by omega]
      rw [if_pos rfl]
      change (v + BitVec.twoPow (w + 1) (w - n)).getLsbD i = _
      rw [BitVec.add_eq_or_of_and_eq_zero _ _ hfree, BitVec.getLsbD_or, ih (by omega) hi, BitVec.getLsbD_twoPow]
      by_cases he : i = w - n
      · simp [show w - i = n by omega, hf, ← he, Nat.lt_succ_of_le hi]
      · simp [hlast, he, Ne.symm he]

/-- Bit `31 - m` of a CODE word is bit `m` of its part of the code (10_state.md R58). -/
theorem getLsbD_codeWord (c : Code) (k : Nat) {m : Nat} (hm : m < 32) :
    (codeWord c k).getLsbD (31 - m) = c.getD (32 * k + m) false := by
  have h := getLsbD_foldl_bits (w := 31) (n := 32) (i := 31 - m) (fun m => c.getD (32 * k + m) false)
    le_rfl (Nat.sub_le 31 m)
  rw [show 31 - (31 - m) = m by omega] at h
  exact h.trans (by simp [hm])

theorem State.hostRead_lutWindow (s : State) (sym : Symbol) {k : Nat} (hk : k < 16) :
    s.hostRead .four (BitVec.ofNat 17 (0x4000 + 64 * sym.toNat + 4 * k)) =
      if s.isBusy then s.drawWord else (lutWord (codeAt s.lut sym) k, s) := by
  rw [State.hostRead, target_lut s.cfg sym hk]

/-- LEN is exact for a code of at most 255 bits (R57, R58). -/
theorem lutWord_zero {c : Code} (h : c.length ≤ 255) : lutWord c 0 = BitVec.ofNat 32 c.length := by
  apply BitVec.eq_of_toNat_eq
  rw [lutWord, if_pos rfl, BitVec.toNat_setWidth, BitVec.toNat_ofNat, BitVec.toNat_ofNat]
  omega

/-- Settles O57: entry `sym` starts 64 * sym bytes into the window, and its words are LEN, zeros and the code. -/
theorem lutWindow : Obligations.LutWindow := by
  intro s sym k hk
  refine ⟨fun hp hfit => ?_, fun hb => (s.hostRead_lutWindow sym hk).trans (if_pos hb)⟩
  have hread := s.hostRead_lutWindow sym hk
  rw [State.isBusy_eq_false.2 hp, if_neg Bool.false_ne_true] at hread
  refine ⟨?_, fun h1 h8 => ?_, fun h8 => ?_⟩
  · rintro rfl
    exact hread.trans (by rw [lutWord_zero (hfit sym)])
  · rw [hread, lutWord, if_neg (by omega), if_pos h8]
  · rw [hread]
    refine ⟨rfl, fun m hm => ?_⟩
    rw [lutWord, if_neg (by omega), if_neg (by omega)]
    exact getLsbD_codeWord _ _ hm

end Sys2Proof.Machine
end

section
/-! Which events change OVERRUN, the tables and the phase (O58, O59, O60). -/

namespace Sys2Proof.Machine

/-! ### What a host transaction changes -/

/-- A host read leaves the flags, the phase and the tables as they are (20_memory.md R98). -/
theorem State.hostRead_frame (s : State) (n : Size) (off : Offset) :
    s.sameTree (s.hostRead n off).2 ∧ (s.hostRead n off).2.freq = s.freq ∧
      (s.hostRead n off).2.overrun = s.overrun ∧ (s.hostRead n off).2.phase = s.phase := by
  rcases s.hostRead_state n off with e | e <;> rw [e] <;> exact ⟨⟨rfl, rfl, rfl, rfl, rfl⟩, rfl, rfl, rfl⟩

/-- A write of CTRL clears OVERRUN with SRST or CLR_OVERRUN, a dropped write sets it, and any other keeps it
(10_state.md R43, 20_memory.md R93). -/
theorem State.hostWrite_overrun (s : State) (n : Size) (off : Offset) (v : Word) :
    (n = .four ∧ off = 0x008#17 ∧ (v.getLsbD 0 = true ∨ v.getLsbD 1 = true) ∧
      (s.hostWrite n off v).overrun = false) ∨
    (s.isBusy = true ∧ ¬ (n = .four ∧ off = 0x008#17) ∧ (s.hostWrite n off v).overrun = true) ∨
    (s.hostWrite n off v).overrun = s.overrun := by
  rcases s.hostWrite_cases n off v with ⟨ht, e⟩ | ⟨hb, ht, e⟩ | ⟨-, r, -, hr, e⟩ | ⟨-, sym, -, e⟩ |
    ⟨-, k, -, e⟩ | ⟨-, e⟩ <;> rw [e]
  · obtain ⟨hn, hoff⟩ := target_eq_reg_iff.1 ht
    rcases s.writeCtrl_cases v with ⟨h0, e'⟩ | ⟨-, e'⟩ <;> rw [e']
    · exact .inl ⟨hn, hoff, .inl h0, rfl⟩
    · cases h1 : v.getLsbD 1 with
      | true => exact .inl ⟨hn, hoff, .inr rfl, by simp⟩
      | false => exact .inr (.inr (by simp))
  · exact .inr (.inl ⟨hb, fun h => ht (target_eq_reg_iff.2 h), rfl⟩)
  · obtain ⟨-, -, -, ho⟩ := s.writeReg_frame v hr
    exact .inr (.inr ho)
  · exact .inr (.inr rfl)
  · exact .inr (.inr rfl)
  · exact .inr (.inr rfl)

/-- FREQ is written by SRST and by an idle write to it alone (10_state.md R52). -/
theorem State.hostWrite_freq (s : State) (n : Size) (off : Offset) (v : Word) :
    (n = .four ∧ off = 0x008#17 ∧ v.getLsbD 0 = true) ∨
    (s.phase = .idle ∧ n = .four ∧ ∃ sym : Symbol, off = BitVec.ofNat 17 (0x400 + 4 * sym.toNat)) ∨
    (s.hostWrite n off v).freq = s.freq := by
  rcases s.hostWrite_cases n off v with ⟨ht, e⟩ | ⟨-, -, e⟩ | ⟨-, r, -, hr, e⟩ | ⟨hi, sym, ht, e⟩ |
    ⟨-, k, -, e⟩ | ⟨-, e⟩ <;> rw [e]
  · obtain ⟨hn, hoff⟩ := target_eq_reg_iff.1 ht
    cases h0 : v.getLsbD 0 with
    | true => exact .inl ⟨hn, hoff, rfl⟩
    | false =>
      obtain ⟨-, -, hf, -⟩ := s.writeCtrl_frame h0
      exact .inr (.inr hf)
  · exact .inr (.inr rfl)
  · obtain ⟨-, -, hf, -⟩ := s.writeReg_frame v hr
    exact .inr (.inr hf)
  · obtain ⟨hn, hoff⟩ := target_eq_freq ht
    exact .inr (.inl ⟨State.isBusy_eq_false.1 hi, hn, sym, hoff⟩)
  · exact .inr (.inr rfl)
  · exact .inr (.inr rfl)

/-- A host write changes the phase by SRST, or by an issue while idle (10_state.md R36, R61). -/
theorem State.hostWrite_phase (s : State) (n : Size) (off : Offset) (v : Word) :
    (n = .four ∧ off = 0x008#17 ∧ v.getLsbD 0 = true ∧ (s.hostWrite n off v).phase = .idle) ∨
    (s.phase = .idle ∧ n = .four ∧ off = 0x00C#17 ∧ (s.hostWrite n off v).phase = .busy v) ∨
    (s.hostWrite n off v).phase = s.phase := by
  rcases s.hostWrite_cases n off v with ⟨ht, e⟩ | ⟨-, -, e⟩ | ⟨hi, r, ht, hr, e⟩ | ⟨-, sym, -, e⟩ |
    ⟨-, k, -, e⟩ | ⟨-, e⟩ <;> rw [e]
  · obtain ⟨hn, hoff⟩ := target_eq_reg_iff.1 ht
    cases h0 : v.getLsbD 0 with
    | true =>
      refine .inl ⟨hn, hoff, rfl, ?_⟩
      rw [State.writeCtrl, if_pos h0]
      rfl
    | false =>
      obtain ⟨-, -, -, hp⟩ := s.writeCtrl_frame h0
      exact .inr (.inr hp)
  · exact .inr (.inr rfl)
  · obtain ⟨hn, hoff⟩ := target_eq_reg_iff.1 ht
    cases r with
    | ctrl => exact absurd rfl hr
    | cmd => exact .inr (.inl ⟨State.isBusy_eq_false.1 hi, hn, hoff, rfl⟩)
    | _ => exact .inr (.inr rfl)
  · exact .inr (.inr rfl)
  · exact .inr (.inr rfl)
  · exact .inr (.inr rfl)

/-! ### What the engine changes -/

theorem engineStep_overrun_freq {s t : State} (h : engineStep s = .next t) :
    t.overrun = s.overrun ∧ t.freq = s.freq := by
  rcases engineStep_cases h with ⟨-, rfl⟩ | ⟨w, i, -, -, hx⟩ | ⟨w, r, -, -, rfl⟩
  · exact ⟨rfl, rfl⟩
  · obtain ⟨-, -, h⟩ := exec_frame hx
    exact h
  · exact ⟨rfl, rfl⟩

/-- The engine's step leaves an idle engine as it is, and a busy one idle with DONE set (60_exceptions.md R262). -/
theorem engineStep_completes {s t : State} (h : engineStep s = .next t) :
    t = s ∨ (s.isBusy = true ∧ t.phase = .idle ∧ t.done = true) := by
  rcases engineStep_cases h with ⟨-, rfl⟩ | ⟨w, i, hp, -, hx⟩ | ⟨w, r, hp, -, rfl⟩
  · exact .inl rfl
  · exact .inr ⟨State.isBusy_eq_true.2 ⟨w, hp⟩, exec_completes hx⟩
  · exact .inr ⟨State.isBusy_eq_true.2 ⟨w, hp⟩, rfl, rfl⟩

/-- The engine writes the tree by completing BUILD or DESERIALIZE alone (10_state.md R41, R50, R54). -/
theorem engineStep_tree {s t : State} (h : engineStep s = .next t) (hne : ¬ s.sameTree t) :
    ∃ w, s.phase = .busy w ∧ t.phase = .idle ∧ (decode w = .ok .build ∨ decode w = .ok .deserialize) := by
  rcases engineStep_cases h with ⟨-, rfl⟩ | ⟨w, i, hp, hd, hx⟩ | ⟨w, r, -, -, rfl⟩
  · exact absurd ⟨rfl, rfl, rfl, rfl, rfl⟩ hne
  · refine ⟨w, hp, (exec_completes hx).1, ?_⟩
    by_cases hb : i = .build
    · exact .inl (hb ▸ hd)
    · by_cases hs : i = .deserialize
      · exact .inr (hs ▸ hd)
      · exact absurd (exec_sameTree hb hs hx) hne
  · exact absurd ⟨rfl, rfl, rfl, rfl, rfl⟩ hne

/-- The engine writes the LUT by completing GENLUT alone (R57). -/
theorem engineStep_lut {s t : State} (h : engineStep s = .next t) (hne : t.lut ≠ s.lut) :
    ∃ w, s.phase = .busy w ∧ t.phase = .idle ∧ decode w = .ok .genlut := by
  rcases engineStep_cases h with ⟨-, rfl⟩ | ⟨w, i, hp, hd, hx⟩ | ⟨w, r, -, -, rfl⟩
  · exact absurd rfl hne
  · by_cases hg : i = .genlut
    · exact ⟨w, hp, (exec_completes hx).1, hg ▸ hd⟩
    · exact absurd (exec_lut_of_ne_genlut hg hx) hne
  · exact absurd rfl hne

/-! ### What a step changes -/

/-- Settles O58: a dropped write sets OVERRUN, and a write of CTRL or a reset clears it. -/
theorem overrunChangesOnlyAsStated : Obligations.OverrunChangesOnlyAsStated := by
  intro s t h
  by_cases hsame : t.overrun = s.overrun
  · constructor <;> intro h1 h2 <;> rw [hsame, h1] at h2 <;> cases h2
  rcases step_cases h with ⟨n, off, rest, -, rfl⟩ | ⟨n, off, v, rest, hev, rfl⟩ | ⟨rest, hev, rfl⟩ |
    ⟨rest, -, hx⟩ | ⟨-, hx⟩
  · obtain ⟨-, -, ho, -⟩ := ({ s with events := rest } : State).hostRead_frame n off
    exact absurd ho hsame
  · rcases ({ s with events := rest } : State).hostWrite_overrun n off v with
      ⟨rfl, rfl, hv, ho⟩ | ⟨hb, hne, ho⟩ | ho
    · rw [ho]
      exact ⟨fun _ => nofun, fun _ _ => ⟨rest, .inr ⟨v, hev, hv⟩⟩⟩
    · rw [ho]
      exact ⟨fun _ _ => ⟨hb, n, off, v, rest, hev, hne⟩, fun _ => nofun⟩
    · exact absurd ho hsame
  · exact ⟨fun _ => nofun, fun _ _ => ⟨rest, .inl hev⟩⟩
  · exact absurd (engineStep_overrun_freq hx).1 hsame
  · exact absurd (engineStep_overrun_freq hx).1 hsame

/-- Settles O59: with no reset due, a host write can change FREQ alone, and the engine the table of its command. -/
theorem tablesChangeOnlyAsStated : Obligations.TablesChangeOnlyAsStated := by
  intro s t h hpulse hsrst
  rcases step_cases h with ⟨n, off, rest, -, rfl⟩ | ⟨n, off, v, rest, hev, rfl⟩ | ⟨rest, hev, -⟩ |
    ⟨rest, -, hx⟩ | ⟨-, hx⟩
  · obtain ⟨hT, hf, -, -⟩ := ({ s with events := rest } : State).hostRead_frame n off
    exact ⟨fun hne => absurd hT hne, fun hne => absurd (State.hostRead_lut _ n off) hne,
      fun hne => absurd hf hne⟩
  · have hno : ¬ (n = .four ∧ off = 0x008#17 ∧ v.getLsbD 0 = true) := by
      rintro ⟨rfl, rfl, h0⟩
      exact hsrst v rest h0 hev
    rcases ({ s with events := rest } : State).hostWrite_tables n off v with ⟨ht, h0, -⟩ | ⟨hT, -, hl⟩
    · obtain ⟨hn, hoff⟩ := target_eq_reg_iff.1 ht
      exact absurd ⟨hn, hoff, h0⟩ hno
    · refine ⟨fun hne => absurd hT hne, fun hne => absurd hl hne, fun hne => ?_⟩
      rcases ({ s with events := rest } : State).hostWrite_freq n off v with h0 | ⟨hp, rfl, sym, rfl⟩ | hf
      · exact absurd h0 hno
      · exact ⟨hp, sym, v, rest, hev⟩
      · exact absurd hf hne
  · exact absurd hev (hpulse rest)
  · exact ⟨engineStep_tree (s := { s with events := rest }) hx, engineStep_lut (s := { s with events := rest }) hx,
      fun hne => absurd (engineStep_overrun_freq hx).2 hne⟩
  · exact ⟨engineStep_tree hx, engineStep_lut hx, fun hne => absurd (engineStep_overrun_freq hx).2 hne⟩

/-- Settles O60: an issue is a CMD write while idle, a completion the engine's step, a reset rst_n or CTRL.SRST. -/
theorem phaseChangesOnlyAsStated : Obligations.PhaseChangesOnlyAsStated := by
  intro s t h hne
  rcases step_cases h with ⟨n, off, rest, -, rfl⟩ | ⟨n, off, v, rest, hev, rfl⟩ | ⟨rest, hev, rfl⟩ |
    ⟨rest, hev, hx⟩ | ⟨hev, hx⟩
  · obtain ⟨-, -, -, hp⟩ := ({ s with events := rest } : State).hostRead_frame n off
    exact absurd hp hne
  · rcases ({ s with events := rest } : State).hostWrite_phase n off v with
      ⟨rfl, rfl, h0, hp⟩ | ⟨hs, rfl, rfl, hp⟩ | hp
    · exact .inr (.inr ⟨hp, rest, .inr ⟨v, h0, hev⟩⟩)
    · exact .inl ⟨hs, v, rest, hev, hp⟩
    · exact absurd hp hne
  · exact .inr (.inr ⟨rfl, rest, .inl hev⟩)
  · rcases engineStep_completes hx with rfl | ⟨hb, hp, hd⟩
    · exact absurd rfl hne
    · exact .inr (.inl ⟨hb, hp, hd, .inr ⟨rest, hev⟩⟩)
  · rcases engineStep_completes hx with rfl | ⟨hb, hp, hd⟩
    · exact absurd rfl hne
    · exact .inr (.inl ⟨hb, hp, hd, .inl hev⟩)

end Sys2Proof.Machine
end

section
/-! What commands leave alone (O16): the inputs, the bytes outside the destination range, LUT_VALID and BITCOUNT. -/

namespace Sys2Proof.Machine

/-! ### What an error leaves alone -/

@[simp] theorem State.raise_errCode (s : State) (e : Error) : (s.raise e).errCode = e.code := by
  obtain ⟨-, -, h, -⟩ := s.raise_failedWith e
  exact h

@[simp] theorem State.raise_bitCount (s : State) (e : Error) : (s.raise e).bitCount = s.bitCount := by
  unfold State.raise
  split <;> rfl

theorem State.sameInputs_raise (s : State) (e : Error) : s.sameInputs (s.raise e) := by
  unfold State.raise State.sameInputs
  split <;> exact ⟨rfl, rfl, rfl, rfl, rfl, rfl, rfl, rfl, rfl, rfl, rfl⟩

/-- A pre-check error writes no byte (60_exceptions.md R266). -/
theorem State.sameMemory_raise (s : State) {e : Error} (h : e.code.isExecution = false) :
    s.sameMemory (s.raise e) := by
  rw [State.raise_preCheck s e h]
  exact fun _ => rfl

/-- Output of at most DST_CAP bytes stays in the destination range (20_memory.md R92). -/
theorem State.sameMemoryBut_storeDst (s : State) {bs : List Byte} (h : bs.length ≤ s.dstCap.toNat) :
    s.sameMemoryBut (s.storeDst bs) s.dstAddr.toNat s.dstCap.toNat :=
  fun _ hb => State.byteAt_store_outside s (by omega)

/-! ### What a command leaves alone -/

theorem exec_sameInputs {i : Instr} {s t : State} (h : exec i s = .next t) : s.sameInputs t := by
  rcases exec_cases h with ⟨e, rfl⟩ | ⟨-, ns, n, r, l, rfl⟩ | ⟨-, -, vs, -, rfl⟩ | ⟨-, e, rfl⟩ |
    ⟨-, -, bs, ns, n, l, b, out, -, rfl⟩ | ⟨-, bs, b, out, -, rfl⟩
  case inl => exact s.sameInputs_raise e
  case inr.inr.inr.inl => exact s.loseTree.sameInputs_raise e
  all_goals exact ⟨rfl, rfl, rfl, rfl, rfl, rfl, rfl, rfl, rfl, rfl, rfl⟩

/-- No command writes a byte outside its destination range (20_memory.md R92). -/
theorem exec_sameMemoryBut {i : Instr} {s t : State} (h : exec i s = .next t) :
    s.sameMemoryBut t s.dstAddr.toNat s.dstCap.toNat := by
  rcases exec_cases h with ⟨e, rfl⟩ | ⟨-, ns, n, r, l, rfl⟩ | ⟨-, -, vs, -, rfl⟩ | ⟨-, e, rfl⟩ |
    ⟨-, -, bs, ns, n, l, b, out, hle, rfl⟩ | ⟨-, bs, b, out, hle, rfl⟩
  · exact fun a ha => s.byteAt_raise e ha
  · exact fun _ _ => rfl
  · exact fun _ _ => rfl
  · exact fun a ha => s.loseTree.byteAt_raise e ha
  · exact s.sameMemoryBut_storeDst hle
  · exact s.sameMemoryBut_storeDst hle

/-- A command that fails a pre-check writes no byte (60_exceptions.md R266). -/
theorem exec_preCheck_sameMemory {i : Instr} {s t : State} (h : exec i s = .next t)
    (hne : t.errCode ≠ .none) (hpre : t.errCode.isExecution = false) : s.sameMemory t := by
  rcases exec_cases h with ⟨e, rfl⟩ | ⟨-, ns, n, r, l, rfl⟩ | ⟨-, -, vs, -, rfl⟩ | ⟨-, e, rfl⟩ |
    ⟨-, -, bs, ns, n, l, b, out, -, rfl⟩ | ⟨-, bs, b, out, -, rfl⟩
  case inl => exact s.sameMemory_raise (by rwa [State.raise_errCode] at hpre)
  case inr.inr.inr.inl => exact s.loseTree.sameMemory_raise (by rwa [State.raise_errCode] at hpre)
  all_goals exact absurd rfl hne

/-- BUILD and GENLUT have no destination and write no byte (30_encoding.md R116). -/
theorem exec_table_sameMemory {i : Instr} {s t : State} (hi : i = .build ∨ i = .genlut)
    (h : exec i s = .next t) : s.sameMemory t := by
  rcases hi with rfl | rfl
  · obtain rfl := Host.Outcome.next.inj h
    exact fun _ => rfl
  · rcases execGenlut_cases h with ⟨-, rfl⟩ | ⟨-, vs, -, rfl⟩
    · exact s.sameMemory_raise rfl
    · exact fun _ => rfl

/-- Only GENLUT sets LUT_VALID, and only BUILD and DESERIALIZE clear it (10_state.md R42). -/
theorem exec_lutValid_eq {i : Instr} {s t : State} (hg : i ≠ .genlut) (hb : i ≠ .build)
    (hd : i ≠ .deserialize) (h : exec i s = .next t) : t.lutValid = s.lutValid := by
  rcases exec_cases h with ⟨e, rfl⟩ | ⟨h, -⟩ | ⟨h, -⟩ | ⟨h, -⟩ | ⟨h, -⟩ | ⟨-, bs, b, out, -, rfl⟩
  · exact (s.sameCodes_raise e).1
  · exact absurd h hb
  · exact absurd h hg
  · exact absurd h hd
  · exact absurd h hd
  · rfl

/-- ENCODE and DESERIALIZE are the only commands that write BITCOUNT (10_state.md R49). -/
theorem exec_bitCount_eq {i : Instr} {s t : State} (he : i ≠ .encode) (hd : i ≠ .deserialize)
    (h : exec i s = .next t) : t.bitCount = s.bitCount := by
  cases i with
  | build =>
    obtain rfl := Host.Outcome.next.inj h
    rfl
  | genlut => rcases execGenlut_cases h with ⟨-, rfl⟩ | ⟨-, vs, -, rfl⟩ <;> simp
  | encode => exact absurd rfl he
  | decode => rcases execDecode_cases h with ⟨e, rfl⟩ | ⟨-, -, -, out, -, -, rfl⟩ <;> simp
  | serialize => rcases execSerialize_cases h with ⟨e, rfl⟩ | ⟨-, -, -, vs, bytes, -, -, -, rfl⟩ <;> simp
  | deserialize => exact absurd rfl hd

/-- Settles O16: each clause is the frame of one part of the state, over the outcomes of all commands. -/
theorem commandsWriteOnlyTheirOutputs : Obligations.CommandsWriteOnlyTheirOutputs :=
  fun _ _ _ h => ⟨exec_sameInputs h, exec_sameMemoryBut h, fun hi => exec_table_sameMemory hi h,
    exec_preCheck_sameMemory h, fun hb hd => exec_sameTree hb hd h, fun hg => exec_lut_of_ne_genlut hg h,
    fun hg hb hd => exec_lutValid_eq hg hb hd h, fun he hd => exec_bitCount_eq he hd h⟩

end Sys2Proof.Machine
end

section
/-! Transactions that are dropped, that reach nothing, and that reach DMEM (O50, O51, O55). -/

namespace Sys2Proof.Machine

/-! ### Dropped writes -/

/-- While busy a write to anything but CTRL sets OVERRUN and does nothing else (20_memory.md R93). -/
theorem State.hostWrite_dropped (s : State) {n : Size} {off : Offset} (v : Word) (hb : s.isBusy = true)
    (ht : target s.cfg n off ≠ .reg .ctrl) : s.hostWrite n off v = { s with overrun := true } := by
  rw [State.hostWrite, if_pos hb, State.hostWriteBusy, if_neg ht]

/-- Settles O50: CTRL stands at 0x008 alone, and a word written there is written in every phase. -/
theorem busyWritesAreDropped : Obligations.BusyWritesAreDropped := by
  intro s n off v hb
  refine ⟨fun hoff => s.hostWrite_dropped v hb fun ht => ?_, s.hostWrite_ctrl v⟩
  obtain ⟨-, hctrl⟩ := target_eq_reg_iff.1 ht
  exact hoff hctrl

/-! ### Transactions that reach nothing -/

/-- What reaches nothing reads 0 in every phase (20_memory.md R84, R85, R87, R88). -/
theorem State.hostRead_nothing (s : State) {n : Size} {off : Offset} (ht : target s.cfg n off = .nothing) :
    s.hostRead n off = (0#32, s) := by
  rw [State.hostRead, ht]

/-- What reaches nothing writes nothing, and while busy is a dropped write (R84, R93). -/
theorem State.hostWrite_nothing (s : State) {n : Size} {off : Offset} (v : Word)
    (ht : target s.cfg n off = .nothing) :
    s.hostWrite n off v = if s.isBusy then { s with overrun := true } else s := by
  cases hb : s.isBusy with
  | true => exact s.hostWrite_dropped v hb (by simp [ht])
  | false => simp [State.hostWrite, hb, State.hostWriteIdle, ht]

/-- The words between the windows, and the slot past NODE[510] (20_memory.md R82, R85). -/
theorem windowTarget_reserved {a : Nat}
    (h : 0x40 ≤ a ∧ a < 0x400 ∨ 0x800 ≤ a ∧ a < 0x1000 ∨ 0x2FF0 ≤ a ∧ a < 0x4000) :
    windowTarget a = .nothing := by
  unfold windowTarget
  rcases h with h | h | h
  · rw [if_neg (by omega), if_pos (by omega)]
  · rw [if_neg (by omega), if_neg (by omega), if_neg (by omega), if_pos (by omega)]
  · rw [if_neg (by omega), if_neg (by omega), if_neg (by omega), if_neg (by omega), if_neg (by omega),
      if_pos (by omega)]

/-- Below 0x08000 only aligned words reach something (20_memory.md R84). -/
theorem target_notWord (p : Config.Params) {n : Size} {off : Offset} (hlo : off.toNat < 0x8000)
    (h : n ≠ .four ∨ off.toNat % 4 ≠ 0) : target p n off = .nothing := by
  rw [target, if_pos hlo, if_neg (by tauto)]

/-- A reserved offset below 0x08000 holds nothing for any transaction (R85). -/
theorem target_reserved (p : Config.Params) (n : Size) {off : Offset} (hlo : off.toNat < 0x8000)
    (h : windowTarget off.toNat = .nothing) : target p n off = .nothing := by
  rw [target, if_pos hlo, h, ite_self]

/-- Nor does any offset from the windows' end to DMEM (R85). -/
theorem target_belowDmem (p : Config.Params) (n : Size) {off : Offset} (hlo : 0x8000 ≤ off.toNat)
    (hhi : off.toNat < 0x10000) : target p n off = .nothing := by
  rw [target, if_neg (Nat.not_lt.2 hlo), if_pos hhi]

/-- Settles O51: none of these transactions has a target. -/
theorem accessesWithoutATarget : Obligations.AccessesWithoutATarget := by
  intro s n off v h
  have ht : target s.cfg n off = .nothing := by
    rcases h with ⟨hlo, h⟩ | h | h | h | ⟨hlo, hhi⟩
    · exact target_notWord s.cfg hlo h
    · exact target_reserved s.cfg n (by omega) (windowTarget_reserved (.inl h))
    · exact target_reserved s.cfg n (by omega) (windowTarget_reserved (.inr (.inl h)))
    · exact target_reserved s.cfg n (by omega) (windowTarget_reserved (.inr (.inr h)))
    · exact target_belowDmem s.cfg n hlo hhi
  exact ⟨s.hostRead_nothing ht, s.hostWrite_nothing v ht⟩

/-! ### Little-endian data -/

theorem Size.bytes_le_four (n : Size) : n.bytes ≤ 4 := by
  cases n <;> decide

/-- Byte `i` of a word written, as a number (20_memory.md R86). -/
theorem getElem_bytesOfWord {n i : Nat} (v : Word) (h : i < (bytesOfWord n v).length) :
    (bytesOfWord n v)[i] = BitVec.ofNat 8 (v.toNat / 256 ^ i) := by
  have hp : (2 : Nat) ^ (8 * i) = 256 ^ i := by rw [Nat.pow_mul]
  simp [bytesOfWord, BitVec.extractLsb', Nat.shiftRight_eq_div_pow, hp]

theorem lt_of_mem_map_toNat {bs : List Byte} : ∀ d ∈ bs.map BitVec.toNat, d < 256 := by
  intro d hd
  obtain ⟨b, -, rfl⟩ := List.mem_map.1 hd
  exact b.isLt

/-- A word read is the number whose digits to the base 256 are its bytes (R86). -/
theorem toNat_wordOfBytes {bs : List Byte} (h : bs.length ≤ 4) :
    (wordOfBytes bs).toNat = Nat.ofDigits 256 (bs.map BitVec.toNat) := by
  induction bs with
  | nil => rfl
  | cons b bs ih =>
    have hlen : bs.length ≤ 3 := Nat.le_of_succ_le_succ h
    have hlt : Nat.ofDigits 256 (bs.map BitVec.toNat) < 256 ^ 3 :=
      (Nat.ofDigits_lt_base_pow_length (by decide) lt_of_mem_map_toNat).trans_le
        (Nat.pow_le_pow_right (by decide) (by simpa using hlen))
    have hb := b.isLt
    have hor := Nat.shiftLeft_add_eq_or_of_lt hb (Nat.ofDigits 256 (bs.map BitVec.toNat))
    rw [Nat.shiftLeft_eq] at hor
    rw [List.map_cons, Nat.ofDigits_cons, wordOfBytes, BitVec.toNat_or, BitVec.toNat_setWidth,
      BitVec.toNat_shiftLeft, ih (by omega), Nat.shiftLeft_eq, Nat.mod_eq_of_lt (by omega),
      Nat.mod_eq_of_lt (by omega), Nat.or_comm, ← hor]
    omega

/-- Byte `i` of a word read. -/
theorem wordOfBytes_byte {bs : List Byte} (h : bs.length ≤ 4) {i : Nat} (hi : i < bs.length) :
    (wordOfBytes bs).toNat / 256 ^ i % 256 = bs[i].toNat := by
  rw [toNat_wordOfBytes h, Nat.ofDigits_div_pow_eq_ofDigits_drop i (by decide) _ lt_of_mem_map_toNat,
    List.drop_eq_getElem_cons (by simpa using hi), Nat.ofDigits_cons, Nat.add_mul_mod_self_left,
    List.getElem_map]
  exact Nat.mod_eq_of_lt bs[i].isLt

theorem wordOfBytes_lt {bs : List Byte} (h : bs.length ≤ 4) : (wordOfBytes bs).toNat < 256 ^ bs.length := by
  rw [toNat_wordOfBytes h]
  simpa using Nat.ofDigits_lt_base_pow_length (b := 256) (by decide) (lt_of_mem_map_toNat (bs := bs))

@[simp] theorem State.length_bytesAt (s : State) (a n : Nat) : (s.bytesAt a n).length = n := by
  simp [State.bytesAt]

@[simp] theorem State.getElem_bytesAt (s : State) {a n i : Nat} (h : i < (s.bytesAt a n).length) :
    (s.bytesAt a n)[i] = s.byteAt (a + i) := by
  simp [State.bytesAt]

/-! ### DMEM -/

/-- An aligned access inside DMEM reaches its bytes (20_memory.md R86). -/
theorem target_dmem {p : Config.Params} {n : Size} {off : Offset} (hlo : 0x10000 ≤ off.toNat)
    (ha : (off.toNat - 0x10000) % n.bytes = 0) (hin : off.toNat - 0x10000 + n.bytes ≤ p.dmemBytes) :
    target p n off = .dmem (off.toNat - 0x10000) := by
  rw [target, if_neg (by omega), if_neg (by omega), if_pos ⟨ha, hin⟩]

/-- A misaligned access, and one beyond DMEM_BYTES, reaches nothing (R87, R88). -/
theorem target_dmem_nothing {p : Config.Params} {n : Size} {off : Offset} (hlo : 0x10000 ≤ off.toNat)
    (h : (off.toNat - 0x10000) % n.bytes ≠ 0 ∨ p.dmemBytes < off.toNat - 0x10000 + n.bytes) :
    target p n off = .nothing := by
  rw [target, if_neg (by omega), if_neg (by omega), if_neg (by omega)]

section Dmem
variable {s : State} {n : Size} {off : Offset} {k : Nat} (ht : target s.cfg n off = .dmem k)
include ht

theorem State.hostWrite_dmem_idle (v : Word) (hb : s.isBusy = false) :
    s.hostWrite n off v = s.store k (bytesOfWord n.bytes v) := by
  simp [State.hostWrite, hb, State.hostWriteIdle, ht]

theorem State.hostRead_dmem_idle (hb : s.isBusy = false) :
    s.hostRead n off = (wordOfBytes (s.bytesAt k n.bytes), s) := by
  simp [State.hostRead, hb, ht]

theorem State.hostRead_dmem_busy (hb : s.isBusy = true) : s.hostRead n off = s.drawBytes n.bytes := by
  simp [State.hostRead, hb, ht]

/-- An idle write stores the low bytes of its word, little-endian, and changes nothing else (20_memory.md R86). -/
theorem State.hostWrite_dmem_spec (v : Word) (hb : s.isBusy = false) :
    (∀ i : Nat, i < n.bytes → (s.hostWrite n off v).byteAt (k + i) = BitVec.ofNat 8 (v.toNat / 256 ^ i)) ∧
    s.sameMemoryBut (s.hostWrite n off v) k n.bytes ∧
    s.hostWrite n off v = { s with dmem := (s.hostWrite n off v).dmem } := by
  rw [State.hostWrite_dmem_idle ht v hb]
  refine ⟨fun i hi => ?_, fun b hout => s.byteAt_store_outside (by simpa using hout), rfl⟩
  have hlen : i < (bytesOfWord n.bytes v).length := by simpa using hi
  rw [s.byteAt_store_inside hlen, getElem_bytesOfWord]

/-- An idle read gives the bytes as a little-endian number and changes nothing (R86). -/
theorem State.hostRead_dmem_spec (hb : s.isBusy = false) :
    (s.hostRead n off).2 = s ∧
    (∀ i : Nat, i < n.bytes →
      (s.hostRead n off).1.toNat / 256 ^ i % 256 = (s.byteAt (k + i)).toNat) ∧
    (s.hostRead n off).1.toNat < 256 ^ n.bytes := by
  have hlen : (s.bytesAt k n.bytes).length ≤ 4 := by simpa using n.bytes_le_four
  rw [State.hostRead_dmem_idle ht hb]
  refine ⟨rfl, fun i hi => ?_, by simpa using wordOfBytes_lt hlen⟩
  rw [wordOfBytes_byte hlen (by simpa using hi), State.getElem_bytesAt]

end Dmem

/-- Settles O55: an aligned access inside DMEM reaches its bytes, and every other one at or past 0x10000 nothing. -/
theorem dmemWindow : Obligations.DmemWindow := by
  intro s n off v hlo
  refine ⟨fun hp ha hin => ?_, fun hp h => ?_, fun hb ha hin => ?_⟩
  · have hb := State.isBusy_eq_false.2 hp
    have ht := target_dmem (p := s.cfg) hlo ha hin
    obtain ⟨hbytes, hframe, hdmem⟩ := State.hostWrite_dmem_spec ht v hb
    exact ⟨hbytes, hframe, hdmem, State.hostRead_dmem_spec ht hb⟩
  · have ht := target_dmem_nothing (p := s.cfg) hlo h
    refine ⟨s.hostRead_nothing ht, ?_⟩
    rw [s.hostWrite_nothing v ht, State.isBusy_eq_false.2 hp]
    rfl
  · rw [State.hostRead_dmem_busy (target_dmem (p := s.cfg) hlo ha hin) hb]
    exact ⟨toNat_lowBytes n.bytes _ n.bytes_le_four, rfl⟩

end Sys2Proof.Machine
end

section
/-! Command words: a word is the command of its opcode field exactly when its reserved field is zero (O1, O2), and
every other word ends in ILLEGAL_CMD (O4). -/

namespace Sys2Proof

/-! ### The fields of a word -/

/-- RSVD and OPCODE are the whole word (30_encoding.md R110). -/
theorem reservedField_append_opcodeField (w : Word) : reservedField w ++ opcodeField w = w :=
  BitVec.extractLsb'_append_extractLsb'_eq_extractLsb' (x := w) rfl |>.trans BitVec.extractLsb'_eq_self

theorem toNat_eq_fields (w : Word) : w.toNat = 256 * (reservedField w).toNat + (opcodeField w).toNat := by
  have h := Machine.toNat_append_eq (reservedField w) (opcodeField w)
  rw [reservedField_append_opcodeField] at h
  omega

/-! ### The opcode map -/

theorem ofOpcode_eq_some_iff {op : BitVec 8} {i : Instr} : ofOpcode op = some i ↔ op = opcodeOf i := by
  constructor
  · unfold ofOpcode
    intro h
    split_ifs at h <;> cases h <;> assumption
  · rintro rfl
    cases i <;> rfl

/-- The opcodes of the map are 0x01..0x06 (R113). -/
theorem exists_eq_opcodeOf_iff (op : BitVec 8) :
    (∃ i, op = opcodeOf i) ↔ 1 ≤ op.toNat ∧ op.toNat ≤ 6 := by
  constructor
  · rintro ⟨i, rfl⟩
    cases i <;> decide
  · rintro ⟨h1, h6⟩
    have hop : op = BitVec.ofNat 8 op.toNat := by simp
    generalize op.toNat = n at hop h1 h6
    subst hop
    interval_cases n
    · exact ⟨.build, rfl⟩
    · exact ⟨.genlut, rfl⟩
    · exact ⟨.encode, rfl⟩
    · exact ⟨.decode, rfl⟩
    · exact ⟨.serialize, rfl⟩
    · exact ⟨.deserialize, rfl⟩

/-! ### Decoding -/

theorem decode_eq_ok_iff {w : Word} {i : Instr} :
    decode w = .ok i ↔ reservedField w = 0#24 ∧ opcodeField w = opcodeOf i := by
  rw [← ofOpcode_eq_some_iff]
  unfold decode
  split
  · next hr =>
    cases ofOpcode (opcodeField w) <;> simp [hr]
  · next hr => simp [hr]

/-- Decoding inverts encoding (R110, R113). -/
theorem decode_eq_ok_iff_eq_encode {w : Word} {i : Instr} : decode w = .ok i ↔ w = encode i := by
  rw [decode_eq_ok_iff]
  constructor
  · rintro ⟨hr, ho⟩
    rw [← reservedField_append_opcodeField w, hr, ho, encode]
  · rintro rfl
    cases i <;> exact ⟨rfl, rfl⟩

/-- The legal words by their fields (R111). -/
theorem exists_decode_iff_fields (w : Word) :
    (∃ i, decode w = .ok i) ↔
      reservedField w = 0#24 ∧ 1 ≤ (opcodeField w).toNat ∧ (opcodeField w).toNat ≤ 6 := by
  simp only [decode_eq_ok_iff, exists_and_left, exists_eq_opcodeOf_iff]

/-- The legal words as numbers (R113). -/
theorem exists_decode_iff_toNat (w : Word) : (∃ i, decode w = .ok i) ↔ 1 ≤ w.toNat ∧ w.toNat ≤ 6 := by
  have hw := toNat_eq_fields w
  have hop := (opcodeField w).isLt
  rw [exists_decode_iff_fields, ← BitVec.toNat_inj]
  show (reservedField w).toNat = 0 ∧ _ ↔ _
  omega

/-- Settles O2: a word is its two fields, and the opcode map is a bijection onto 0x01..0x06. -/
theorem decodeAcceptsExactlyLegalWords : Obligations.DecodeAcceptsExactlyLegalWords :=
  ⟨exists_decode_iff_fields, exists_decode_iff_toNat, fun _ _ => decode_eq_ok_iff_eq_encode⟩

/-- Settles O1: six words are those of the commands, and the numbers of the other six are not 1 to 6. -/
theorem listedWordsDecode : Obligations.ListedWordsDecode := by
  have hdec (i : Instr) : decode (encode i) = .ok i := decode_eq_ok_iff_eq_encode.2 rfl
  refine ⟨hdec .build, hdec .genlut, hdec .encode, hdec .decode, hdec .serialize, hdec .deserialize, ?_⟩
  intro w hw i hi
  have hnot : ∀ w ∈ [0x00000000#32, 0x00000007#32, 0x000000FF#32, 0x00000101#32, 0x00000107#32, 0x80000003#32],
      ¬ (1 ≤ w.toNat ∧ w.toNat ≤ 6) := by simp
  exact hnot w hw ((exists_decode_iff_toNat w).1 ⟨i, hi⟩)

end Sys2Proof

namespace Sys2Proof.Machine

/-! ### Illegal words -/

/-- A word refused ends in ILLEGAL_CMD with the word in ERRINFO, and changes nothing else (R114). -/
theorem complete_illegal {w : Word} (h : ∀ i, decode w ≠ .ok i) (s : State) :
    complete w s = .next (s.preCheckFailed (illegalError w)) := by
  unfold complete
  split
  · next i hi => exact absurd hi (h i)
  · rw [State.raise_preCheck _ _ rfl]

/-- Settles O4: the CMD write issues the word, and the step after it finds no command in it. -/
theorem illegalWordReportsIllegalCmd : Obligations.IllegalWordReportsIllegalCmd := by
  intro s w hidle hev hbad
  have hdec : ∀ i, decode w ≠ .ok i := by
    intro i hi
    obtain ⟨hr, h1, h6⟩ := (exists_decode_iff_fields w).1 ⟨i, hi⟩
    rcases hbad with hb | hb | hb
    · exact hb hr
    · rw [opcodeField, hb] at h1
      exact absurd h1 (by decide)
    · exact absurd h6 (Nat.not_le_of_lt hb)
  have hissue : s.hostWrite .four 0x00C#17 w = s.issue w := s.hostWrite_reg_idle .cmd w hidle
  have hstep : step (s.issue w) = .next ((s.issue w).preCheckFailed (illegalError w)) :=
    (step_of_no_event (s := s.issue w) hev).trans (complete_illegal hdec _)
  rw [hissue, hstep]
  refine ⟨rfl, ?_, ?_⟩
  · simp [State.preCheckFailed, State.issue, illegalError, hidle]
  · intro t ht
    cases ht
    exact show 0#16 ++ 0#8 ++ 0x01#8 = 0x00000001#32 by decide

end Sys2Proof.Machine
end

section
/-! Varints: the bytes of the minimal form one by one, and reading as the inverse of writing in both directions
(O38, O39). -/

namespace Sys2Proof.Machine

/-! ### Groups of seven bits -/

theorem two_pow_group_succ (i : Nat) : 2 ^ (7 * (i + 1)) = 128 * 2 ^ (7 * i) := by
  rw [Nat.mul_succ, Nat.pow_add, Nat.mul_comm]

/-- The groups below `i + 1` are those below `i` and group `i`. -/
theorem mod_group_succ (v i : Nat) :
    v % 2 ^ (7 * (i + 1)) = v % 2 ^ (7 * i) + v / 2 ^ (7 * i) % 128 * 2 ^ (7 * i) := by
  rw [two_pow_group_succ, Nat.mul_comm 128, Nat.mod_mul, Nat.mul_comm (2 ^ (7 * i))]

/-! ### The length of a varint -/

/-- A varint has a byte `i` when `i` is 0, or when some group from `i` on is not 0 (30_encoding.md R143). -/
theorem lt_varintLen_iff (v i : Nat) : i < varintLen v ↔ i = 0 ∨ i < 5 ∧ 2 ^ (7 * i) ≤ v := by
  by_cases hi : i < 5
  · unfold varintLen
    interval_cases i <;> split_ifs <;> simp <;> omega
  · have hle : varintLen v ≤ 5 := by
      unfold varintLen
      split_ifs <;> decide
    omega

theorem varintLen_pos (v : Nat) : 0 < varintLen v := (lt_varintLen_iff v 0).2 (.inl rfl)

theorem varintLen_le_five (v : Nat) : varintLen v ≤ 5 := by
  have h := lt_varintLen_iff v 5
  omega

/-- A value of `varintLen` groups is below the next power (R143). -/
theorem lt_two_pow_varintLen {v : Nat} (h : v < 2 ^ 32) : v < 2 ^ (7 * varintLen v) := by
  by_contra hge
  have hlen := lt_varintLen_iff v (varintLen v)
  have h5 : varintLen v = 5 := by
    have := varintLen_le_five v
    omega
  rw [h5] at hge
  omega

/-- The length of a varint by its last group. -/
theorem varintLen_eq_succ {v i : Nat} (hlt : v < 2 ^ (7 * (i + 1))) (hi : i < varintLen v) :
    varintLen v = i + 1 := by
  have h := lt_varintLen_iff v (i + 1)
  omega

/-! ### The bytes of a varint -/

/-- The bytes of the minimal varint from byte `i` on. -/
def varintFrom (v i : Nat) : List Byte := (List.range' i (varintLen v - i)).map (varintByte v)

theorem varintFrom_zero (v : Nat) : varintFrom v 0 = varint v := by
  rw [varintFrom, varint, Nat.sub_zero, List.range_eq_range']

theorem varintFrom_of_lt {v i : Nat} (h : i < varintLen v) :
    varintFrom v i = varintByte v i :: varintFrom v (i + 1) := by
  rw [varintFrom, varintFrom, show varintLen v - i = varintLen v - (i + 1) + 1 by omega, List.range'_succ,
    List.map_cons]

theorem varintFrom_of_le {v i : Nat} (h : varintLen v ≤ i) : varintFrom v i = [] := by
  rw [varintFrom, Nat.sub_eq_zero_of_le h]
  rfl

@[simp] theorem length_varint (v : Nat) : (varint v).length = varintLen v := by
  simp [varint]

/-- A byte of a varint is its group, and 128 more when another byte follows (R143). -/
theorem toNat_varintByte (v i : Nat) :
    (varintByte v i).toNat = v / 2 ^ (7 * i) % 128 + if i + 1 < varintLen v then 128 else 0 := by
  have hlt : i < varintLen v - 1 ↔ i + 1 < varintLen v := by omega
  simp only [varintByte, BitVec.toNat_ofNat, hlt]
  split <;> omega

theorem getLsbD_seven (b : Byte) : b.getLsbD 7 = decide (128 ≤ b.toNat) := by
  have := b.isLt
  rw [BitVec.getLsbD, Nat.testBit_eq_decide_div_mod_eq]
  exact decide_eq_decide.2 (by omega)

/-! ### Reading one byte -/

/-- A byte that R142 accepts as byte `i` of a varint: a fifth one is at most 0x0F, and one after the first is not 0. -/
def acceptsByte (i : Nat) (b : Byte) : Prop := (i = 4 → b.toNat ≤ 0x0F) ∧ (1 ≤ i → 1 ≤ b.toNat)

/-- What `readGroups` accepts: a byte that passes, and after it the end or an accepted rest, as its bit 7 says
(R142). -/
theorem readGroups_cons_eq_ok_iff {bytes : List Byte} {i : Nat} {is : List Nat} {pos acc : Nat} {r : Nat × Nat} :
    readGroups bytes (i :: is) pos acc = .ok r ↔
      ∃ b, bytes[pos]? = some b ∧ acceptsByte i b ∧
        if 128 ≤ b.toNat then readGroups bytes is (pos + 1) (acc + b.toNat % 128 * 2 ^ (7 * i)) = .ok r
        else r = (acc + b.toNat % 128 * 2 ^ (7 * i), pos + 1) := by
  rw [readGroups]
  cases bytes[pos]? with
  | none => simp
  | some b =>
    have hzero : b = 0x00#8 ↔ b.toNat = 0 := BitVec.toNat_inj.symm
    simp only [Option.some.injEq, exists_eq_left', acceptsByte, hzero, getLsbD_seven, decide_eq_true_eq]
    split
    · simp; omega
    · split
      · simp; omega
      · rw [and_iff_right (by omega)]
        split <;> simp [eq_comm]

/-! ### Reading a minimal form -/

theorem toNat_varintByte_mod (v i : Nat) : (varintByte v i).toNat % 128 = v / 2 ^ (7 * i) % 128 := by
  rw [toNat_varintByte]
  split <;> omega

theorem le_toNat_varintByte_iff (v i : Nat) : 128 ≤ (varintByte v i).toNat ↔ i + 1 < varintLen v := by
  rw [toNat_varintByte]
  split <;> omega

/-- No byte of a minimal form is refused: a fifth byte is the last four bits, and a last byte is not 0. -/
theorem acceptsByte_varintByte {v i : Nat} (hv : v < 2 ^ 32) (hi : i < varintLen v) :
    acceptsByte i (varintByte v i) := by
  have hlen := (lt_varintLen_iff v i).1 hi
  have hbyte := toNat_varintByte v i
  constructor
  · rintro rfl
    have := varintLen_le_five v
    rw [if_neg (by omega)] at hbyte
    omega
  · intro hpos
    split at hbyte
    · omega
    · next hlast =>
      have hlt := lt_two_pow_varintLen hv
      rw [show varintLen v = i + 1 by omega, two_pow_group_succ] at hlt
      have hdiv : v / 2 ^ (7 * i) < 128 := Nat.div_lt_of_lt_mul (by rwa [Nat.mul_comm])
      have hone : 1 ≤ v / 2 ^ (7 * i) := (Nat.one_le_div_iff (by positivity)).2 (by omega)
      omega

/-- The groups of a minimal form from `i` on are read to the end of it. -/
theorem readGroups_varintFrom {v : Nat} (hv : v < 2 ^ 32) {bytes after : List Byte} {i n pos : Nat}
    (hn : i + n = 5) (hi : i < varintLen v) (hbytes : bytes.drop pos = varintFrom v i ++ after) :
    readGroups bytes (List.range' i n) pos (v % 2 ^ (7 * i)) = .ok (v, pos + (varintLen v - i)) := by
  induction n generalizing i pos with
  | zero =>
    have := varintLen_le_five v
    omega
  | succ n ih =>
    rw [varintFrom_of_lt hi, List.cons_append] at hbytes
    rw [List.range'_succ, readGroups_cons_eq_ok_iff]
    refine ⟨varintByte v i, by rw [← List.head?_drop, hbytes, List.head?_cons], acceptsByte_varintByte hv hi, ?_⟩
    rw [toNat_varintByte_mod, ← mod_group_succ]
    split
    · next hcont =>
      have hi' := (le_toNat_varintByte_iff v i).1 hcont
      rw [ih (by omega) hi' (by rw [← List.tail_drop, hbytes, List.tail_cons])]
      congr 2
      omega
    · next hlast =>
      rw [le_toNat_varintByte_iff] at hlast
      have hlen : varintLen v = i + 1 := by omega
      rw [← hlen, Nat.mod_eq_of_lt (lt_two_pow_varintLen hv), hlen, Nat.add_sub_cancel_left]

theorem readVarint_of_drop_eq {v pos : Nat} (hv : v < 2 ^ 32) {bytes after : List Byte}
    (hbytes : bytes.drop pos = varint v ++ after) : readVarint bytes pos = .ok (v, pos + varintLen v) := by
  have h := readGroups_varintFrom hv (n := 5) (Nat.zero_add 5) (varintLen_pos v)
    (by rwa [varintFrom_zero])
  rwa [Nat.mul_zero, Nat.pow_zero, Nat.mod_one] at h

/-- Settles O38: each byte of the minimal form is accepted and adds its group. -/
theorem varintReadsBack : Obligations.VarintReadsBack := by
  intro v before after hv
  exact readVarint_of_drop_eq (after := after) hv (by simp)

/-! ### What is accepted is a minimal form -/

theorem drop_eq_cons_of_getElem? {α : Type} {xs : List α} {i : Nat} {x : α} (h : xs[i]? = some x) :
    xs.drop i = x :: xs.drop (i + 1) := by
  rw [List.drop_eq_getElem?_toList_append, h]
  rfl

theorem varintByte_eq_of_group {v i : Nat} {b : Byte} (hgroup : v / 2 ^ (7 * i) % 128 = b.toNat % 128)
    (hcont : i + 1 < varintLen v ↔ 128 ≤ b.toNat) : varintByte v i = b := by
  have := b.isLt
  apply BitVec.eq_of_toNat_eq
  rw [toNat_varintByte, hgroup]
  split <;> omega

/-- A value is determined below group `i + 1` by what it is below group `i` and that group. -/
theorem group_of_mod {v i acc g : Nat} (hacc : acc < 2 ^ (7 * i)) (h : v % 2 ^ (7 * (i + 1)) = acc + g * 2 ^ (7 * i)) :
    v % 2 ^ (7 * i) = acc ∧ v / 2 ^ (7 * i) % 128 = g := by
  have hpos : 0 < 2 ^ (7 * i) := by positivity
  rw [two_pow_group_succ, Nat.mul_comm 128] at h
  constructor
  · rw [← Nat.mod_mul_right_mod v _ 128, h, Nat.add_mul_mod_self_right, Nat.mod_eq_of_lt hacc]
  · rw [← Nat.mod_mul_right_div_self, h, Nat.add_mul_div_right _ _ hpos, Nat.div_eq_of_lt hacc, Nat.zero_add]

theorem add_group_lt {acc g i : Nat} (hacc : acc < 2 ^ (7 * i)) (hg : g < 128) :
    acc + g * 2 ^ (7 * i) < 2 ^ (7 * (i + 1)) := by
  rw [two_pow_group_succ]
  nlinarith

/-- A varint that ends with group `i` is of a value below 2^32, `i + 1` bytes long. -/
theorem varintLen_of_last {acc i : Nat} {b : Byte} (hi : i < 5) (hacc : acc < 2 ^ (7 * i))
    (hb : acceptsByte i b) (hlt : b.toNat < 128) :
    acc + b.toNat * 2 ^ (7 * i) < 2 ^ 32 ∧ varintLen (acc + b.toNat * 2 ^ (7 * i)) = i + 1 := by
  obtain ⟨hfive, hpos⟩ := hb
  constructor
  · interval_cases i <;> omega
  · refine varintLen_eq_succ (add_group_lt hacc hlt) ((lt_varintLen_iff _ i).2 ?_)
    rcases Nat.eq_zero_or_pos i with h0 | h0
    · exact .inl h0
    · exact .inr ⟨hi, (Nat.le_mul_of_pos_left _ (hpos h0)).trans (Nat.le_add_left _ _)⟩

/-- What is read from group `i` on is the rest of the minimal form of the value. -/
theorem varintFrom_of_readGroups {bytes : List Byte} {i n pos acc v next : Nat} (hn : i + n = 5)
    (hacc : acc < 2 ^ (7 * i)) (h : readGroups bytes (List.range' i n) pos acc = .ok (v, next)) :
    v < 2 ^ 32 ∧ v % 2 ^ (7 * i) = acc ∧ i < varintLen v ∧ next = pos + (varintLen v - i) ∧
      bytes.drop pos = varintFrom v i ++ bytes.drop next := by
  induction n generalizing i pos acc with
  | zero => cases h
  | succ n ih =>
    rw [List.range'_succ, readGroups_cons_eq_ok_iff] at h
    obtain ⟨b, hb, hok, h⟩ := h
    have hdrop := drop_eq_cons_of_getElem? hb
    split at h
    · next hcont =>
      obtain ⟨hv, hmod, hlen, hnext, hrest⟩ :=
        ih (by omega) (add_group_lt hacc (Nat.mod_lt _ (by decide))) h
      obtain ⟨hlow, hgroup⟩ := group_of_mod hacc hmod
      refine ⟨hv, hlow, by omega, by omega, ?_⟩
      rw [varintFrom_of_lt (by omega), varintByte_eq_of_group hgroup (iff_of_true hlen hcont), hdrop, hrest,
        List.cons_append]
    · next hlast =>
      have hlt := Nat.lt_of_not_le hlast
      rw [Nat.mod_eq_of_lt hlt] at h
      obtain ⟨rfl, rfl⟩ := Prod.mk.inj h
      obtain ⟨hv, hlen⟩ := varintLen_of_last (by omega) hacc hok hlt
      obtain ⟨hlow, hgroup⟩ := group_of_mod hacc (Nat.mod_eq_of_lt (add_group_lt hacc hlt))
      refine ⟨hv, hlow, by omega, by omega, ?_⟩
      rw [varintFrom_of_lt (by omega), varintFrom_of_le hlen.le, hdrop,
        varintByte_eq_of_group (by rw [hgroup, Nat.mod_eq_of_lt hlt]) (iff_of_false (by omega) hlast),
        List.cons_append, List.nil_append]

/-- Settles O39: an accepted byte is that of the minimal form of the value read. -/
theorem varintAcceptsMinimalForms : Obligations.VarintAcceptsMinimalForms := by
  intro bytes pos v next h
  obtain ⟨hv, -, hlen, hnext, hdrop⟩ := varintFrom_of_readGroups (i := 0) (n := 5) rfl Nat.one_pos h
  rw [varintFrom_zero] at hdrop
  have hlength := congrArg List.length hdrop
  rw [List.length_append, length_varint, List.length_drop, List.length_drop] at hlength
  exact ⟨hv, hnext, by omega, hdrop⟩

end Sys2Proof.Machine
end

section
/-! What DESERIALIZE accepts is an artifact: the bytes of each field read are the field of what is loaded (O43). -/

namespace Sys2Proof.Machine

/-! ### Records -/

@[simp] theorem record_withLeft (l : NodeIdx) (n : Node) : record (n.withLeft l) = record n := by
  cases n <;> rfl

@[simp] theorem record_withRight (r : NodeIdx) (n : Node) : record (n.withRight r) = record n := by
  cases n <;> rfl

/-- Setting a child changes no record: an artifact carries no index (30_encoding.md R145). -/
theorem flatMap_record_modify {f : Node → Node} (hf : ∀ n, record (f n) = record n) (ns : List Node) (j : Nat) :
    (ns.modify j f).flatMap record = ns.flatMap record := by
  induction ns generalizing j with
  | nil => simp
  | cons n ns ih => cases j <;> simp [hf, ih]

/-- Linking a record reads no byte and changes no record (43_container.md R247). -/
theorem Parse.link_records (p : Parse) :
    p.link.pos = p.pos ∧ p.link.nodes.length = p.nodes.length ∧
      p.link.nodes.flatMap record = p.nodes.flatMap record := by
  unfold Parse.link
  split
  · exact ⟨rfl, rfl, rfl⟩
  · split
    · exact ⟨rfl, List.length_modify .., flatMap_record_modify (record_withLeft _) _ _⟩
    · split
      · exact ⟨rfl, rfl, rfl⟩
      · exact ⟨rfl, List.length_modify .., flatMap_record_modify (record_withRight _) _ _⟩

/-- A record read is the record of the node it adds (30_encoding.md R145, R146). -/
theorem Parse.readRecord_records {bytes : List Byte} {p q : Parse} (h : p.readRecord bytes = .ok q) :
    ∃ n, q.nodes.length = p.nodes.length + 1 ∧ q.nodes.flatMap record = p.nodes.flatMap record ++ record n ∧
      bytes.drop p.pos = record n ++ bytes.drop q.pos := by
  obtain ⟨hpos, hlen, hrec⟩ := p.link_records
  unfold Parse.readRecord at h
  split at h
  · cases h
  · split at h
    · cases h
    · next tag htag =>
      have hdrop := drop_eq_cons_of_getElem? htag
      split at h
      · next h0 =>
        cases h
        exact ⟨.internal 0 0 0, by simp [hlen], by simp [hrec], by rw [hdrop, h0, hpos]; rfl⟩
      · split at h
        · next h1 =>
          split at h
          · cases h
          · next sym hsym =>
            split at h
            · cases h
            · cases h
              refine ⟨.leaf sym 0, by simp [hlen], by simp [hrec], ?_⟩
              rw [hdrop, h1, drop_eq_cons_of_getElem? hsym, hpos]
              rfl
        · cases h

/-- The bytes the record loop reads are the records of the nodes it adds. -/
theorem readRecords_records {bytes : List Byte} {left : Nat} {p q : Parse}
    (h : readRecords bytes left p = .ok q) :
    ∃ bs, q.nodes.length = p.nodes.length + left ∧ q.nodes.flatMap record = p.nodes.flatMap record ++ bs ∧
      bytes.drop p.pos = bs ++ bytes.drop q.pos := by
  induction left generalizing p with
  | zero =>
    cases h
    exact ⟨[], rfl, by simp, rfl⟩
  | succ left ih =>
    rw [readRecords] at h
    split at h
    · cases h
    · next p' hp' =>
      obtain ⟨n, hlen, hrec, hdrop⟩ := Parse.readRecord_records hp'
      obtain ⟨bs, hlen', hrec', hdrop'⟩ := ih h
      refine ⟨record n ++ bs, by omega, ?_, ?_⟩
      · rw [hrec', hrec, List.append_assoc]
      · rw [hdrop, hdrop', List.append_assoc]

/-! ### The fields of an accepted artifact -/

/-- The tree of an accepted artifact: VERSION, NODECOUNT and the records of its nodes (30_encoding.md R140). -/
theorem parseTree_bytes {bytes : List Byte} {p : Parse} (h : parseTree bytes = .ok p) :
    bytes = [0x01#8] ++ varint p.nodes.length ++ p.nodes.flatMap record ++ bytes.drop p.pos := by
  unfold parseTree at h
  split at h
  · cases h
  · next version rest =>
    split at h
    · cases h
    · next hversion =>
      split at h
      · cases h
      · next count pos hcount =>
        split at h
        · cases h
        · split at h
          · cases h
          · next q hread =>
            split at h
            · cases h
            · cases h
              obtain ⟨bs, hlen, hrec, hdrop⟩ := readRecords_records hread
              obtain ⟨-, -, -, hvar⟩ := varintAcceptsMinimalForms _ _ _ _ hcount
              have hn : p.nodes.length = count := by simpa [Parse.start] using hlen
              have hbs : p.nodes.flatMap record = bs := by simpa [Parse.start] using hrec
              have hpos : (Parse.start pos count).pos = pos := rfl
              rw [hpos] at hdrop
              rw [List.drop_one, List.tail_cons, hdrop] at hvar
              rw [hn, hbs, List.append_assoc, List.append_assoc, ← hvar, Decidable.not_not.1 hversion]
              rfl

/-- An accepted artifact: a tree, BITCOUNT, and a payload of just the bytes it takes (43_container.md R248-R250). -/
theorem parseArtifact_bytes {bytes : List Byte} {a : Loaded} (h : parseArtifact bytes = .ok a) :
    bytes = [0x01#8] ++ varint a.nodes.length ++ a.nodes.flatMap record ++ varint a.bitCount ++
        bytes.drop a.payloadAt ∧
      a.bitCount < 2 ^ 32 ∧ (bytes.drop a.payloadAt).length = ceil8 a.bitCount := by
  unfold parseArtifact at h
  split at h
  · cases h
  · next p hp =>
    split at h
    · cases h
    · next b pos hb =>
      split at h
      · cases h
      · split at h
        · cases h
        · cases h
          obtain ⟨hlt, -, -, hvar⟩ := varintAcceptsMinimalForms _ _ _ _ hb
          refine ⟨?_, hlt, ?_⟩
          · rw [List.append_assoc _ (varint _), ← hvar]
            exact parseTree_bytes hp
          · show (bytes.drop pos).length = ceil8 b
            rw [List.length_drop]
            omega

/-! ### The tree loaded -/

/-- The records of a tree are those of its entries in pre-order (30_encoding.md R147). -/
theorem Tree.records_of_heldBy {t : Vector Node 511} (T : Tree) (h : T.heldBy t) :
    (T.indices.filterMap fun i => t[i]?).flatMap record = T.shape.records := by
  induction T with
  | leaf i sym w =>
    have hi : t[i.toNat]? = some (.leaf sym w) := h
    simp [Tree.indices, Tree.shape, Shape.records, hi]
  | node i w l r ihl ihr =>
    obtain ⟨hi, hl, hr⟩ := h
    have hi' : t[i.toNat]? = some (.internal w l.idx r.idx) := hi
    simp [Tree.indices, Tree.shape, Shape.records, hi', ihl hl, ihr hr]

theorem filterMap_range_getElem? {α : Type} (xs : List α) :
    ((List.range xs.length).filterMap fun i => xs[i]?) = xs := by
  induction xs with
  | nil => rfl
  | cons x xs ih => simp [List.range_succ_eq_map, List.filterMap_map, ih]

theorem filterMap_range_writeNodes (t : Vector Node 511) {ns : List Node} (h : ns.length ≤ 511) :
    ((List.range ns.length).filterMap fun i => (writeNodes t ns)[i]?) = ns := by
  refine (List.filterMap_congr fun i hi => ?_).trans (filterMap_range_getElem? ns)
  have hlt := List.mem_range.1 hi
  simp [writeNodes, hlt, show i < 511 by omega]

/-- A state with the nodes of an accepted artifact in NODE holds a tree whose records they are (R244-R247, R252). -/
theorem holdsShape_of_parseArtifact {bytes : List Byte} {a : Loaded} (h : parseArtifact bytes = .ok a)
    {s t : State} (hnode : t.node = writeNodes s.node a.nodes)
    (hcount : t.nodeCount = BitVec.ofNat 9 a.nodes.length) (hroot : t.root = 0#9)
    (hleaf : t.leafCount = BitVec.ofNat 9 a.leaves) :
    ∃ sh, t.holdsShape sh ∧ Shape.distinct sh ∧ Shape.sizeOf sh = a.nodes.length ∧
      Shape.recordsOf sh = a.nodes.flatMap record := by
  obtain ⟨p, hp, hnodes, hleaves⟩ := parseArtifact_parseTree h
  rw [hnodes] at hnode hcount ⊢
  rw [hleaves] at hleaf
  rcases parseTree_tree s.node hp with ⟨hn, hl⟩ | ⟨T, hidx, hheld, hind, hnd, hlen, hle⟩
  · rw [hn] at hcount ⊢
    rw [hl] at hleaf
    exact ⟨none, ⟨hcount, hroot, hleaf⟩, trivial, rfl, rfl⟩
  · have hsize := T.length_indices
    rw [hind, List.length_range] at hsize
    refine ⟨some T.shape, ⟨T, ⟨hidx.trans hroot.symm, hnode ▸ hheld, ?_, hnd, ?_⟩, rfl⟩, ?_, ?_, ?_⟩
    · rw [hcount, BitVec.toNat_ofNat, Nat.mod_eq_of_lt (by omega), hind]
    · rw [hleaf, BitVec.toNat_ofNat, hlen]
      omega
    · rwa [Shape.distinct, T.shape_symbols]
    · rw [Shape.sizeOf, T.shape_size, hind, List.length_range]
    · rw [Shape.recordsOf, ← T.records_of_heldBy hheld, hind, filterMap_range_writeNodes _ hle]

/-! ### Errors of an artifact -/

theorem readGroups_error {bytes : List Byte} {is : List Nat} {pos v : Nat} {e : Error}
    (h : readGroups bytes is pos v = .error e) : e.code = .corruptArtifact := by
  induction is generalizing pos v with
  | nil =>
    cases h
    rfl
  | cons i is ih =>
    unfold readGroups at h
    split at h
    · cases h
      rfl
    · split_ifs at h
      · cases h
        rfl
      · cases h
        rfl
      · exact ih h

theorem Parse.readRecord_error {bytes : List Byte} {p : Parse} {e : Error} (h : p.readRecord bytes = .error e) :
    e.code = .corruptArtifact := by
  unfold Parse.readRecord at h
  split at h
  · cases h
    rfl
  · split at h
    · cases h
      rfl
    · split at h
      · cases h
      · split at h
        · split at h
          · cases h
            rfl
          · split at h <;> cases h
            rfl
        · cases h
          rfl

theorem readRecords_error {bytes : List Byte} {left : Nat} {p : Parse} {e : Error}
    (h : readRecords bytes left p = .error e) : e.code = .corruptArtifact := by
  induction left generalizing p with
  | zero => cases h
  | succ left ih =>
    rw [readRecords] at h
    split at h
    · next hp =>
      cases h
      exact Parse.readRecord_error hp
    · exact ih h

theorem parseTree_error {bytes : List Byte} {e : Error} (h : parseTree bytes = .error e) :
    e.code = .corruptArtifact := by
  unfold parseTree at h
  split at h
  · cases h
    rfl
  · split at h
    · cases h
      rfl
    · split at h
      · next hcount =>
        cases h
        exact readGroups_error hcount
      · split at h
        · cases h
          rfl
        · split at h
          · next hread =>
            cases h
            exact readRecords_error hread
          · split at h <;> cases h
            rfl

/-- Every refusal of an artifact is CORRUPT_ARTIFACT (43_container.md R240). -/
theorem parseArtifact_error {bytes : List Byte} {e : Error} (h : parseArtifact bytes = .error e) :
    e.code = .corruptArtifact := by
  unfold parseArtifact at h
  split at h
  · next htree =>
    cases h
    exact parseTree_error htree
  · split at h
    · next hbits =>
      cases h
      exact readGroups_error hbits
    · split_ifs at h <;> cases h <;> rfl

/-! ### DESERIALIZE succeeds -/

theorem State.bytesAt_store (s : State) (a : Nat) (bs : List Byte) : (s.store a bs).bytesAt a bs.length = bs := by
  refine List.ext_getElem (by simp) fun i hi hi' => ?_
  rw [State.getElem_bytesAt, State.byteAt_store_inside s hi']

theorem State.drop_bytesAt (s : State) (a n k : Nat) : (s.bytesAt a n).drop k = s.bytesAt (a + k) (n - k) := by
  refine List.ext_getElem (by simp) fun i hi hi' => ?_
  rw [List.getElem_drop, State.getElem_bytesAt, State.getElem_bytesAt, Nat.add_assoc]

/-- A failed range check is RANGE or OVERLAP (20_memory.md R90, R91). -/
theorem State.rangeError_code {s : State} {e : Error} (h : s.rangeError = some e) :
    e.code = .range ∨ e.code = .overlap := by
  unfold State.rangeError at h
  split_ifs at h
  · exact .inl (Option.some.inj h ▸ rfl)
  · exact .inl (Option.some.inj h ▸ rfl)
  · exact .inr (Option.some.inj h ▸ rfl)

/-- DESERIALIZE reports no error only when it loads an accepted artifact (R252). -/
theorem execDeserialize_success {s t : State} (h : execDeserialize s = .next t) (hok : t.errCode = .none) :
    ∃ a, parseArtifact s.srcBytes = .ok a ∧
      t.node = writeNodes s.node a.nodes ∧ t.nodeCount = BitVec.ofNat 9 a.nodes.length ∧ t.root = 0#9 ∧
      t.leafCount = BitVec.ofNat 9 a.leaves ∧ t.bitCount = BitVec.ofNat 32 a.bitCount ∧
      t.bytesAt s.dstAddr.toNat (ceil8 a.bitCount) =
        s.bytesAt (s.srcAddr.toNat + a.payloadAt) (ceil8 a.bitCount) := by
  unfold execDeserialize at h
  split at h
  · next e he =>
    cases h
    rw [State.raise_errCode] at hok
    rcases State.rangeError_code he with hc | hc <;> rw [hc] at hok <;> cases hok
  · split at h
    · next e he =>
      cases h
      rw [State.raise_errCode, parseArtifact_error he] at hok
      cases hok
    · next a ha =>
      split at h
      · cases h
        rw [State.raise_errCode] at hok
        cases hok
      · cases h
        refine ⟨a, ha, rfl, rfl, rfl, rfl, rfl, ?_⟩
        have := s.bytesAt_store s.dstAddr.toNat (s.bytesAt (s.srcAddr.toNat + a.payloadAt) (ceil8 a.bitCount))
        rwa [State.length_bytesAt] at this

/-- Settles O43: the fields read are those of an artifact, and the payload is the rest of the source. -/
theorem deserializeAcceptsOnlyArtifacts : Obligations.DeserializeAcceptsOnlyArtifacts := by
  intro s t h hok
  obtain ⟨a, ha, hnode, hcount, hroot, hleaf, hbits, hpayload⟩ := execDeserialize_success h hok
  obtain ⟨sh, hsh, hdistinct, hsize, hrecords⟩ := holdsShape_of_parseArtifact ha hnode hcount hroot hleaf
  obtain ⟨hsrc, hlt, hrest⟩ := parseArtifact_bytes ha
  have hb : t.bitCount.toNat = a.bitCount := by rw [hbits, BitVec.toNat_ofNat, Nat.mod_eq_of_lt hlt]
  rw [hb]
  have hdrop : s.srcBytes.drop a.payloadAt = t.bytesAt s.dstAddr.toNat (ceil8 a.bitCount) := by
    rw [State.srcBytes, State.drop_bytesAt] at hrest ⊢
    rw [State.length_bytesAt] at hrest
    rw [hpayload, hrest]
  refine ⟨sh, _, hsh, hdistinct, State.length_bytesAt .., rfl, ?_⟩
  rw [artifactOf, hsize, hrecords, ← hdrop]
  exact hsrc

end Sys2Proof.Machine
end

section
/-! BUILD (40_tree_builder.md R160-R168): the loop of merges keeps `Merging`, which says that P is the priority set,
that its weights add up to the sum of FREQ, and that every merge so far took the two smallest keys (O20 to O24). -/

namespace Sys2Proof.Machine

/-! ### The entries below and above the nodes written -/

theorem getElem?_writeNodes_of_lt (t : Vector Node 511) {ns : List Node} {i : Nat} (hi : i < 511)
    (h : i < ns.length) : (writeNodes t ns)[i]? = ns[i]? := by
  simp [writeNodes, hi, h]

theorem getElem?_writeNodes_of_ge (t : Vector Node 511) {ns : List Node} {i : Nat} (h : ns.length ≤ i) :
    (writeNodes t ns)[i]? = t[i]? := by
  by_cases hi : i < 511
  · simp [writeNodes, hi, h]
  · simp [hi]

/-- More nodes after the first ones leave those as they are. -/
theorem getElem?_writeNodes_append (t : Vector Node 511) (ns more : List Node) :
    ∀ i, i < ns.length → (writeNodes t (ns ++ more))[i]? = (writeNodes t ns)[i]? := by
  intro i h
  by_cases hi : i < 511
  · rw [getElem?_writeNodes_of_lt t hi (by simp only [List.length_append]; omega),
      getElem?_writeNodes_of_lt t hi h, List.getElem?_append_left h]
  · simp [hi]

/-! ### Keys -/

theorem weightAt_eq {t : Vector Node 511} {j : Nat} {n : Node} (h : t[j]? = some n) :
    weightAt t j = n.weight.toNat := by
  rw [weightAt, h]

/-- The order of keys (R162) is the lexicographic order of these pairs. -/
def Key.rank (k : Key) : ℕ ×ₗ ℕ := toLex (k.weight.toNat, k.idx)

theorem Key.rank_lt_iff (a b : Key) : a.rank < b.rank ↔
    a.weight.toNat < b.weight.toNat ∨ (a.weight.toNat = b.weight.toNat ∧ a.idx < b.idx) :=
  Prod.Lex.toLex_lt_toLex

theorem Key.lt_iff_rank_lt (a b : Key) : a.lt b = true ↔ a.rank < b.rank := by
  simp [Key.lt, Key.rank_lt_iff, BitVec.toNat_inj]

theorem minKey_rank_le (m : Key) (ks : List Key) : ∀ k ∈ m :: ks, (minKey m ks).rank ≤ k.rank := by
  induction ks generalizing m with
  | nil => simp [minKey]
  | cons x ks ih =>
    rw [minKey]
    have hmin := ih (if x.lt m then x else m)
    have hhead : (if x.lt m then x else m).rank ≤ m.rank ∧ (if x.lt m then x else m).rank ≤ x.rank := by
      split
      · next h => exact ⟨((x.lt_iff_rank_lt m).1 h).le, le_rfl⟩
      · next h => exact ⟨le_rfl, not_lt.1 (mt (x.lt_iff_rank_lt m).2 h)⟩
    have hfirst := hmin _ List.mem_cons_self
    intro k hk
    rcases List.mem_cons.1 hk with rfl | hk
    · exact hfirst.trans hhead.1
    rcases List.mem_cons.1 hk with rfl | hk
    · exact hfirst.trans hhead.2
    · exact hmin k (List.mem_cons_of_mem _ hk)

/-- With distinct indices, the member extracted has a smaller key than every member left (R161, R162). -/
theorem extractMin_rank_lt {p rest : List Key} {m : Key} (h : extractMin p = some (m, rest))
    (hp : (p.map Key.idx).Nodup) : ∀ k ∈ rest, m.rank < k.rank := by
  intro k hk
  have hperm := extractMin_perm h
  have hne : m.idx ≠ k.idx := by
    have hnd := (hperm.map Key.idx).nodup_iff.1 hp
    rw [List.map_cons, List.nodup_cons] at hnd
    exact fun e => hnd.1 (e ▸ List.mem_map_of_mem hk)
  refine lt_of_le_of_ne ?_ fun e => hne (congrArg (fun r => (ofLex r).2) e)
  cases p with
  | nil => cases h
  | cons x ks =>
    have hmem := hperm.mem_iff.2 (List.mem_cons_of_mem m hk)
    cases h
    exact minKey_rank_le x ks k hmem

/-- Extracting two members leaves the others. -/
theorem mem_map_idx_iff {a b : Key} {p : List Key} (h : ((a :: b :: p).map Key.idx).Nodup) {j : Nat} :
    j ∈ p.map Key.idx ↔ j ∈ (a :: b :: p).map Key.idx ∧ j ≠ a.idx ∧ j ≠ b.idx := by
  simp only [List.map_cons, List.nodup_cons, List.mem_cons, not_or] at h ⊢
  obtain ⟨⟨-, ha⟩, hb, -⟩ := h
  constructor
  · exact fun hj => ⟨.inr (.inr hj), fun e => ha (e ▸ hj), fun e => hb (e ▸ hj)⟩
  · exact fun ⟨hj, hja, hjb⟩ => (hj.resolve_left hja).resolve_left hjb

/-! ### The priority set of a table -/

/-- NODE[next] merges the two members of the priority set with the smallest keys (R163). -/
def mergesSmallest (t : Vector Node 511) (first next : Nat) : Prop :=
  ∃ (a b : NodeIdx) (w : Weight),
    t[next]? = some (.internal w b a) ∧
    w.toNat = weightAt t a.toNat + weightAt t b.toNat ∧
    inPrioritySet t first next a.toNat ∧
    inPrioritySet t first next b.toNat ∧
    keyBefore t a.toNat b.toNat ∧
    ∀ j : Nat, inPrioritySet t first next j → j ≠ a.toNat → j ≠ b.toNat → keyBefore t b.toNat j

section
variable {t t' : Vector Node 511} {first next j : Nat}

theorem weightAt_congr (h : t'[j]? = t[j]?) : weightAt t' j = weightAt t j := by
  rw [weightAt, weightAt, h]

theorem inPrioritySet_congr (e : ∀ i, i < next → t'[i]? = t[i]?) :
    inPrioritySet t' first next j ↔ inPrioritySet t first next j :=
  and_congr_right' (forall₂_congr fun m _ => forall_congr' fun hlt => by rw [e m hlt])

/-- Which merge makes NODE[next] depends on the entries up to it alone. -/
theorem mergesSmallest.of_eq (h : mergesSmallest t first next) (e : ∀ i, i ≤ next → t'[i]? = t[i]?) :
    mergesSmallest t' first next := by
  obtain ⟨a, b, w, hn, hw, ha, hb, hab, hmin⟩ := h
  have elt : ∀ i, i < next → t'[i]? = t[i]? := fun i hi => e i hi.le
  have ewt : ∀ i, i < next → weightAt t' i = weightAt t i := fun i hi => weightAt_congr (elt i hi)
  refine ⟨a, b, w, (e next le_rfl).trans hn, ?_, (inPrioritySet_congr elt).2 ha,
    (inPrioritySet_congr elt).2 hb, ?_, fun j hj hja hjb => ?_⟩
  · rw [ewt _ ha.1, ewt _ hb.1, hw]
  · rwa [keyBefore, ewt _ ha.1, ewt _ hb.1]
  · rw [keyBefore, ewt _ hb.1, ewt _ hj.1]
    exact hmin j ((inPrioritySet_congr elt).1 hj) hja hjb

/-- The children of a merge were made before it. -/
theorem mergesSmallest.children_lt (h : mergesSmallest t first next) {n : Node} (hn : t[next]? = some n)
    (hj : j ∈ n.children) : j < next := by
  obtain ⟨a, b, w, he, -, ha, hb, -⟩ := h
  obtain rfl := Option.some.inj (hn.symm.trans he)
  rcases List.mem_pair.1 hj with rfl | rfl
  · exact hb.1
  · exact ha.1

/-- The node made last is in the priority set: no merge so far can have taken it (R165). -/
theorem inPrioritySet_last (h : ∀ m, first ≤ m → m ≤ next → mergesSmallest t first m) :
    inPrioritySet t first (next + 1) next :=
  ⟨next.lt_succ_self, fun m hm hlt n hn hc =>
    absurd ((h m hm (Nat.le_of_lt_succ hlt)).children_lt hn hc) (by omega)⟩

/-- A merge takes its two children out of the priority set and puts the new node in (R163). -/
theorem inPrioritySet_succ {a b : NodeIdx} {w : Weight} (hle : first ≤ next)
    (hn : t[next]? = some (.internal w b a))
    (h : ∀ m, first ≤ m → m ≤ next → mergesSmallest t first m) :
    inPrioritySet t first (next + 1) j ↔
      (inPrioritySet t first next j ∧ j ≠ a.toNat ∧ j ≠ b.toNat) ∨ j = next := by
  constructor
  · intro ⟨hlt, hfree⟩
    refine (Nat.lt_or_eq_of_le (Nat.le_of_lt_succ hlt)).imp_left fun hj => ?_
    have hab : j ∉ [b.toNat, a.toNat] := hfree next hle next.lt_succ_self _ hn
    simp only [List.mem_pair, not_or] at hab
    exact ⟨⟨hj, fun m hm hlt => hfree m hm (by omega)⟩, hab.2, hab.1⟩
  · rintro (⟨⟨hlt, hfree⟩, hja, hjb⟩ | rfl)
    · refine ⟨by omega, fun m hm hlt n hmn => ?_⟩
      rcases Nat.lt_or_eq_of_le (Nat.le_of_lt_succ hlt) with hlt | rfl
      · exact hfree m hm hlt n hmn
      · obtain rfl := Option.some.inj (hmn.symm.trans hn)
        simp [Node.children, hja, hjb]
    · exact inPrioritySet_last h

/-- Merge weights never decrease (R168): what a merge leaves in P, the new node included, weighs at least as much as
its heavier child, and the next merge takes two of these. -/
theorem mergesSmallest.weightAt_le_succ (hle : first ≤ next)
    (h : ∀ m, first ≤ m → m ≤ next → mergesSmallest t first m)
    (h' : mergesSmallest t first (next + 1)) : weightAt t next ≤ weightAt t (next + 1) := by
  obtain ⟨a, b, w, hn, hw, -, -, hab, hmin⟩ := h next hle le_rfl
  obtain ⟨a', b', w', hn', hw', ha', hb', -⟩ := h'
  rw [weightAt_eq hn, weightAt_eq hn']
  simp only [Node.weight]
  have heavy : ∀ j, inPrioritySet t first (next + 1) j → weightAt t b.toNat ≤ weightAt t j := by
    intro j hj
    rcases (inPrioritySet_succ hle hn h).1 hj with ⟨hj, hja, hjb⟩ | rfl
    · have := hmin j hj hja hjb
      unfold keyBefore at this
      omega
    · rw [weightAt_eq hn, Node.weight]
      omega
  have hheavya := heavy _ ha'
  have hheavyb := heavy _ hb'
  unfold keyBefore at hab
  omega
end

/-! ### The loop of merges -/

/-- The node that merges the members `a`, extracted first, and `b` (R163). -/
def mergeNode (a b : Key) : Node :=
  .internal (a.weight + b.weight) (BitVec.ofNat 9 b.idx) (BitVec.ofNat 9 a.idx)

/-- What every merge keeps holds at the end. -/
theorem mergeAll_induction {P : List Key → List Node → Prop}
    (step : ∀ {p p1 p2 : List Key} {a b : Key} {ns : List Node}, P p ns → extractMin p = some (a, p1) →
      extractMin p1 = some (b, p2) →
      P (p2 ++ [⟨a.weight + b.weight, ns.length⟩]) (ns ++ [mergeNode a b]))
    (fuel : Nat) {p : List Key} {ns : List Node} (h : P p ns) :
    P (mergeAll fuel p ns).1 (mergeAll fuel p ns).2 := by
  induction fuel generalizing p ns with
  | zero => exact h
  | succ fuel ih =>
    rw [mergeAll]
    split
    · exact h
    · next h1 =>
      split
      · exact h
      · next h2 => exact ih (step h h1 h2)

/-- The merges write after the nodes that stand already. -/
theorem isPrefix_mergeAll (fuel : Nat) (p : List Key) (ns : List Node) : ns <+: (mergeAll fuel p ns).2 :=
  mergeAll_induction (P := fun _ ns' => ns <+: ns') (fun h _ _ => h.trans ⟨_, rfl⟩) fuel ⟨[], List.append_nil ns⟩

/-- What holds before every merge, with `first` leaves of weight `total` in all: `p` is the priority set with its
keys, and every merge so far took the two smallest keys (R161-R163). -/
structure Merging (t : Vector Node 511) (first total : Nat) (p : List Key) (ns : List Node) : Prop where
  leaves : first ≤ ns.length
  count : ns.length + p.length = 2 * first
  nodup : (p.map Key.idx).Nodup
  members : ∀ j, j ∈ p.map Key.idx ↔ inPrioritySet (writeNodes t ns) first ns.length j
  weights : ∀ k ∈ p, weightAt (writeNodes t ns) k.idx = k.weight.toNat
  total : (p.map fun k => k.weight.toNat).sum = total
  merged : ∀ m, first ≤ m → m < ns.length → mergesSmallest (writeNodes t ns) first m

section
variable {t : Vector Node 511} {first total : Nat} {p : List Key} {ns : List Node}

theorem Merging.mem (h : Merging t first total p ns) {k : Key} (hk : k ∈ p) :
    inPrioritySet (writeNodes t ns) first ns.length k.idx :=
  (h.members _).1 (List.mem_map_of_mem hk)

theorem Merging.of_perm {p' : List Key} (h : Merging t first total p ns) (e : p.Perm p') :
    Merging t first total p' ns where
  leaves := h.leaves
  count := e.length_eq ▸ h.count
  nodup := (e.map _).nodup_iff.1 h.nodup
  members j := (e.map _).mem_iff.symm.trans (h.members j)
  weights k hk := h.weights k (e.mem_iff.2 hk)
  total := (e.map _).sum_eq.symm.trans h.total
  merged := h.merged

theorem Merging.toNat_idx (h : Merging t first total p ns) (hfirst : first ≤ 256) {k : Key} (hk : k ∈ p) :
    (BitVec.ofNat 9 k.idx).toNat = k.idx := by
  have hlt := (h.mem hk).1
  have hcount := h.count
  have hpos := List.length_pos_of_mem hk
  rw [BitVec.toNat_ofNat]
  omega

/-- The weight of a merge does not overflow: all weights together add up to `total` (00_scope.md R14). -/
theorem Merging.toNat_add {a b : Key} (h : Merging t first total (a :: b :: p) ns) (htotal : total < 2 ^ 40) :
    (a.weight + b.weight).toNat = a.weight.toNat + b.weight.toNat := by
  have hsum := h.total
  simp only [List.map_cons, List.sum_cons] at hsum
  rw [BitVec.toNat_add]
  omega

theorem Merging.getElem?_new {a b : Key} (h : Merging t first total (a :: b :: p) ns) (hfirst : first ≤ 256) :
    (writeNodes t (ns ++ [mergeNode a b]))[ns.length]? = some (mergeNode a b) := by
  have hcount := h.count
  simp only [List.length_cons] at hcount
  rw [getElem?_writeNodes_of_lt t (by omega) (by simp), List.getElem?_concat_length]

section
variable {a b : Key} (h : Merging t first total (a :: b :: p) ns) (hab : a.rank < b.rank)
  (hmin : ∀ k ∈ p, b.rank < k.rank) (hfirst : first ≤ 256) (htotal : total < 2 ^ 40)
include h hab hmin hfirst htotal

/-- The node made of the two smallest keys is such a merge (R163). -/
theorem Merging.mergesSmallest_new : mergesSmallest (writeNodes t (ns ++ [mergeNode a b])) first ns.length := by
  have ha : a ∈ a :: b :: p := by simp
  have hb : b ∈ a :: b :: p := by simp
  have hold := getElem?_writeNodes_append t ns [mergeNode a b]
  have hwt : ∀ k ∈ a :: b :: p,
      weightAt (writeNodes t (ns ++ [mergeNode a b])) k.idx = k.weight.toNat := fun k hk =>
    (weightAt_congr (hold _ (h.mem hk).1)).trans (h.weights k hk)
  refine ⟨_, _, _, h.getElem?_new hfirst, ?_⟩
  rw [h.toNat_idx hfirst ha, h.toNat_idx hfirst hb, hwt a ha, hwt b hb]
  refine ⟨h.toNat_add htotal, (inPrioritySet_congr hold).2 (h.mem ha),
    (inPrioritySet_congr hold).2 (h.mem hb), ?_, fun j hj hja hjb => ?_⟩
  · rwa [keyBefore, hwt a ha, hwt b hb, ← Key.rank_lt_iff]
  · have hj := (h.members j).2 ((inPrioritySet_congr hold).1 hj)
    obtain ⟨k, hk, rfl⟩ := List.mem_map.1 ((mem_map_idx_iff h.nodup).2 ⟨hj, hja, hjb⟩)
    rw [keyBefore, hwt b hb, hwt k (by simp [hk]), ← Key.rank_lt_iff]
    exact hmin k hk

theorem Merging.merged_new (m : Nat) (hm : first ≤ m) (hle : m ≤ ns.length) :
    mergesSmallest (writeNodes t (ns ++ [mergeNode a b])) first m := by
  rcases Nat.lt_or_eq_of_le hle with hlt | rfl
  · exact (h.merged m hm hlt).of_eq fun i hi => getElem?_writeNodes_append t ns _ i (by omega)
  · exact h.mergesSmallest_new hab hmin hfirst htotal

/-- A merge of the two smallest keys keeps the state of the loop. -/
theorem Merging.merge :
    Merging t first total (p ++ [⟨a.weight + b.weight, ns.length⟩]) (ns ++ [mergeNode a b]) where
  leaves := h.leaves.trans (by simp)
  count := by
    have hcount := h.count
    simp only [List.length_cons] at hcount
    simp only [List.length_append, List.length_singleton]
    omega
  nodup := by
    rw [List.map_append, List.nodup_append_comm]
    refine List.nodup_cons.2 ⟨fun hmem => ?_, h.nodup.tail.tail⟩
    obtain ⟨k, hk, e⟩ := List.mem_map.1 hmem
    exact (h.mem (k := k) (by simp [hk])).1.ne e
  members j := by
    rw [List.length_append, List.length_singleton,
      inPrioritySet_succ h.leaves (h.getElem?_new hfirst) (h.merged_new hab hmin hfirst htotal),
      h.toNat_idx hfirst (by simp), h.toNat_idx hfirst (by simp),
      inPrioritySet_congr (getElem?_writeNodes_append t ns _), ← h.members, ← mem_map_idx_iff h.nodup,
      List.map_append, List.mem_append, List.map_singleton, List.mem_singleton]
  weights k hk := by
    rcases List.mem_append.1 hk with hk | hk
    · have hk' : k ∈ a :: b :: p := by simp [hk]
      rw [weightAt_congr (getElem?_writeNodes_append t ns _ _ (h.mem hk').1), h.weights k hk']
    · obtain rfl := List.mem_singleton.1 hk
      exact weightAt_eq (h.getElem?_new hfirst)
  total := by
    have hsum := h.total
    simp only [List.map_cons, List.sum_cons] at hsum
    rw [List.map_append, List.sum_append, List.map_singleton, List.sum_singleton, h.toNat_add htotal]
    omega
  merged m hm hlt := h.merged_new hab hmin hfirst htotal m hm (by simpa [Nat.lt_succ_iff] using hlt)
end

/-- The loop of merges ends in such a state. -/
theorem Merging.mergeAll (fuel : Nat) (h : Merging t first total p ns) (hfirst : first ≤ 256)
    (htotal : total < 2 ^ 40) :
    Merging t first total (Machine.mergeAll fuel p ns).1 (Machine.mergeAll fuel p ns).2 := by
  refine mergeAll_induction (P := Merging t first total) (fun {p p1 p2 a b ns} h h1 h2 => ?_) fuel h
  have e1 := extractMin_perm h1
  have e2 := extractMin_perm h2
  have hnd1 : (p1.map Key.idx).Nodup := ((e1.map _).nodup_iff.1 h.nodup).tail
  have hb : b ∈ p1 := e2.mem_iff.2 List.mem_cons_self
  exact (h.of_perm (e1.trans (e2.cons a))).merge (extractMin_rank_lt h1 h.nodup b hb)
    (extractMin_rank_lt h2 hnd1) hfirst htotal

/-- When one member is left, it is the last node made, of weight `total` (R165, R168). -/
theorem Merging.last {k : Key} (h : Merging t first total [k] ns) :
    k.idx + 1 = ns.length ∧ weightAt (writeNodes t ns) k.idx = total := by
  have hk : k ∈ [k] := List.mem_singleton_self k
  obtain ⟨n, hn⟩ := Nat.exists_eq_add_one_of_ne_zero (Nat.ne_zero_of_lt (h.mem hk).1)
  have hlast : inPrioritySet (writeNodes t ns) first (n + 1) n :=
    inPrioritySet_last fun m hm hle => h.merged m hm (by omega)
  rw [← hn, ← h.members, List.map_singleton, List.mem_singleton] at hlast
  refine ⟨by omega, ?_⟩
  rw [h.weights k hk, ← h.total, List.map_singleton, List.sum_singleton]
end

/-! ### The tree of a frequency table -/

/-- The weights of the leaves add up to the sum of FREQ: a symbol without a leaf has the count 0 (R160). -/
theorem sum_weight_leafNodes (freq : Vector Word 256) :
    ((leafNodes freq).map fun n => n.weight.toNat).sum = (freq.toList.map fun n => n.toNat).sum := by
  have hfreq : freq.toList = ((List.range 256).map fun n => BitVec.ofNat 8 n).map (freqAt freq) := by
    refine List.ext_getElem (by simp) fun i h1 h2 => ?_
    have hi : i < 256 := by simpa using h2
    simp [freqAt, Nat.mod_eq_of_lt hi]
  rw [leafNodes_eq, hfreq, presentIn]
  induction (List.range 256).map fun n => BitVec.ofNat 8 n with
  | nil => rfl
  | cons sym syms ih =>
    simp only [List.map_map, Function.comp_def, Node.weight, List.map_cons, List.sum_cons] at ih ⊢
    rw [← ih]
    by_cases h : freqAt freq sym = 0#32
    · simp [h]
    · have hwide : (BitVec.setWidth 40 (freqAt freq sym)).toNat = (freqAt freq sym).toNat :=
        BitVec.toNat_setWidth_of_le (by decide)
      rw [List.filter_cons_of_pos (by simpa using h), List.map_cons, List.sum_cons, hwide]

/-- The sum of FREQ fits a weight (00_scope.md R14). -/
theorem sum_freq_lt (freq : Vector Word 256) : (freq.toList.map fun n => n.toNat).sum < 2 ^ 40 := by
  have h := List.sum_le_card_nsmul (freq.toList.map fun n => n.toNat) (2 ^ 32 - 1) fun x hx => by
    obtain ⟨n, -, rfl⟩ := List.mem_map.1 hx
    exact Nat.le_sub_one_of_lt n.isLt
  simp only [List.length_map, Vector.length_toList, smul_eq_mul] at h
  omega

/-- Before the first merge the priority set is that of the leaves (R161). -/
theorem merging_leaves (t : Vector Node 511) {leaves : List Node} (hle : leaves.length ≤ 511) :
    Merging t leaves.length (leaves.map fun n => n.weight.toNat).sum (initialKeys leaves) leaves where
  leaves := le_rfl
  count := by simp [initialKeys, two_mul]
  nodup := by simp [List.nodup_range]
  members j := by
    rw [map_idx_initialKeys, List.mem_range]
    exact (and_iff_left fun m hm hlt => absurd hlt hm.not_gt).symm
  weights k hk := by
    obtain ⟨⟨n, i⟩, hni, rfl⟩ := List.mem_map.1 hk
    rw [List.mk_mem_zipIdx_iff_getElem?] at hni
    have hi := (List.getElem?_eq_some_iff.1 hni).1
    exact weightAt_eq ((getElem?_writeNodes_of_lt t (by omega) hi).trans hni)
  total := by
    rw [initialKeys, List.map_map, ← List.zipIdx_map_fst 0 leaves, List.map_map]
    simp [Function.comp_def]
  merged m hm hlt := absurd hlt hm.not_gt

/-- BUILD ends its merges in a state of the loop (R164). -/
theorem merging_buildTree (t : Vector Node 511) (freq : Vector Word 256) :
    Merging t (presentIn freq).length (freq.toList.map fun n => n.toNat).sum (buildTree freq).1
      (buildTree freq).2 := by
  have hle := length_presentIn_le freq
  have h := merging_leaves t (leaves := leafNodes freq) (by rw [length_leafNodes]; omega)
  rw [length_leafNodes, sum_weight_leafNodes] at h
  exact h.mergeAll _ hle (sum_freq_lt freq)

theorem buildTree_count (freq : Vector Word 256) :
    (buildTree freq).2.length + (buildTree freq).1.length = 2 * (presentIn freq).length :=
  (merging_buildTree (Vector.replicate 511 default) freq).count

/-- One member of P is left at the end (R164). -/
theorem buildTree_one (freq : Vector Word 256) (h : 0 < (presentIn freq).length) :
    ∃ k, (buildTree freq).1 = [k] := by
  have hlen : (initialKeys (leafNodes freq)).length = (presentIn freq).length := by simp [initialKeys]
  exact mergeAll_one (List.ne_nil_of_length_pos (hlen ▸ h)) (by rw [hlen, length_leafNodes])

theorem length_buildTree (freq : Vector Word 256) :
    (buildTree freq).2.length = 2 * (presentIn freq).length - 1 := by
  have hcount := buildTree_count freq
  rcases Nat.eq_zero_or_pos (presentIn freq).length with h | h
  · omega
  · obtain ⟨k, hk⟩ := buildTree_one freq h
    rw [hk, List.length_singleton] at hcount
    omega

theorem length_buildTree_le (freq : Vector Word 256) : (buildTree freq).2.length ≤ 511 := by
  have hle := length_presentIn_le freq
  rw [length_buildTree]
  omega

/-- The merges leave the leaves as they were allocated (R160). -/
theorem buildTree_leaf {freq : Vector Word 256} {k : Nat} {sym : Symbol} (h : (presentIn freq)[k]? = some sym) :
    (buildTree freq).2[k]? = some (.leaf sym ((freqAt freq sym).setWidth 40)) := by
  have hleaf : (leafNodes freq)[k]? = some (.leaf sym ((freqAt freq sym).setWidth 40)) := by
    rw [leafNodes_eq, List.getElem?_map, h, Option.map_some]
  obtain ⟨merges, hmerges⟩ : leafNodes freq <+: (buildTree freq).2 := isPrefix_mergeAll ..
  rw [← hmerges, List.getElem?_append_left (List.getElem?_eq_some_iff.1 hleaf).1, hleaf]

/-- No present symbol leaves no member to be the root, and ROOT is 0 (R166). -/
theorem buildTree_root_empty {freq : Vector Word 256} (h : (presentIn freq).length = 0) :
    rootOf (buildTree freq).1 = 0#9 := by
  have hcount := buildTree_count freq
  rw [List.length_eq_zero_iff.1 (by omega : (buildTree freq).1.length = 0), rootOf]

/-- ROOT is the node made last, and its weight is the sum of FREQ (R165, R168). -/
theorem buildTree_root (t : Vector Node 511) (freq : Vector Word 256) (h : 0 < (presentIn freq).length) :
    (rootOf (buildTree freq).1).toNat = 2 * (presentIn freq).length - 2 ∧
      weightAt (writeNodes t (buildTree freq).2) (rootOf (buildTree freq).1).toNat =
        (freq.toList.map fun n => n.toNat).sum := by
  have hm := merging_buildTree t freq
  obtain ⟨k, hk⟩ := buildTree_one freq h
  rw [hk] at hm
  obtain ⟨hidx, hweight⟩ := hm.last
  rw [length_buildTree] at hidx
  rw [hk, rootOf, hm.toNat_idx (length_presentIn_le freq) (List.mem_singleton_self k)]
  exact ⟨by omega, hweight⟩

theorem buildTree_merged (t : Vector Node 511) (freq : Vector Word 256) {k : Nat}
    (h : k + 1 < (presentIn freq).length) :
    mergesSmallest (writeNodes t (buildTree freq).2) (presentIn freq).length ((presentIn freq).length + k) := by
  refine (merging_buildTree t freq).merged _ (Nat.le_add_right ..) ?_
  rw [length_buildTree]
  omega

/-! ### The state BUILD leaves -/

/-- What BUILD writes of the tree (R164), its counts as numbers. -/
theorem exec_build (s : State) : ∃ t : State, exec .build s = .next t ∧
    t.node = writeNodes s.node (buildTree s.freq).2 ∧ t.nodeCount.toNat = 2 * (presentIn s.freq).length - 1 ∧
    t.root = rootOf (buildTree s.freq).1 ∧ t.leafCount.toNat = (presentIn s.freq).length ∧
    t.treeValid = true ∧ t.lutValid = false ∧ t.lut = s.lut ∧ t.succeeded 0 := by
  have hle := length_presentIn_le s.freq
  refine ⟨_, rfl, rfl, ?_, rfl, ?_, rfl, rfl, rfl, rfl, rfl, rfl, rfl, rfl, rfl⟩
  · show (BitVec.ofNat 9 (buildTree s.freq).2.length).toNat = _
    rw [length_buildTree, BitVec.toNat_ofNat]
    omega
  · show (BitVec.ofNat 9 (leafNodes s.freq).length).toNat = _
    rw [length_leafNodes, BitVec.toNat_ofNat]
    omega

/-- Settles O20: the merges leave the leaves where they are allocated, and the rest is BUILD's frame. -/
theorem buildAllocatesLeaves : Obligations.BuildAllocatesLeaves := by
  intro s
  obtain ⟨t, h, hnode, -, -, hleaf, htree, hlutValid, hlut, hok⟩ := exec_build s
  refine ⟨t, h, hok, htree, hlutValid, hlut, exec_bitCount_eq (by decide) (by decide) h, exec_sameInputs h,
    exec_table_sameMemory (.inl rfl) h, hleaf, fun k sym hk => ?_⟩
  have hleafk := buildTree_leaf hk
  have hlt := (List.getElem?_eq_some_iff.1 hleafk).1
  rw [hnode, getElem?_writeNodes_of_lt _ (hlt.trans_le (length_buildTree_le s.freq)) hlt, hleafk]

/-- Settles O21: L leaves and L - 1 merges are counted, and the node made last is what is left of P. -/
theorem buildCountsNodes : Obligations.BuildCountsNodes := by
  intro s
  obtain ⟨t, h, hnode, hcount, hroot, hleaf, -⟩ := exec_build s
  refine ⟨t, h, fun h0 => ?_, fun h1 => ⟨hcount, hroot ▸ (buildTree_root s.node s.freq h1).1⟩, fun n hn => ?_⟩
  · exact ⟨BitVec.eq_of_toNat_eq (by simp [hcount, h0]), hroot.trans (buildTree_root_empty h0),
      BitVec.eq_of_toNat_eq (by simp [hleaf, h0])⟩
  · rw [hnode, getElem?_writeNodes_of_ge _ (by rwa [length_buildTree, ← hcount])]

/-- Settles O22: each merge of the loop takes the two smallest keys of the priority set. -/
theorem buildMergesSmallestKeys : Obligations.BuildMergesSmallestKeys := by
  intro s
  obtain ⟨t, h, hnode, -⟩ := exec_build s
  exact ⟨t, h, fun k hk => hnode ▸ buildTree_merged s.node s.freq hk⟩

/-- Settles O23: the keys of P keep the sum of FREQ, and each member a merge leaves in P weighs at least as much as
its heavier child. -/
theorem buildWeights : Obligations.BuildWeights := by
  intro s
  obtain ⟨t, h, hnode, -, hroot, -⟩ := exec_build s
  refine ⟨t, h, fun h1 => ?_, fun k hk => ?_⟩
  · rw [hnode, hroot]
    exact (buildTree_root s.node s.freq h1).2
  · rw [hnode]
    refine mergesSmallest.weightAt_le_succ (Nat.le_add_right ..) (fun m hm hle => ?_)
      (buildTree_merged s.node s.freq (k := k + 1) hk)
    obtain ⟨i, rfl⟩ := Nat.exists_eq_add_of_le hm
    exact buildTree_merged s.node s.freq (by omega)

/-- Settles O24: every entry below NODE_COUNT is one that BUILD writes from FREQ. -/
theorem buildDependsOnFreqAlone : Obligations.BuildDependsOnFreqAlone := by
  intro s₁ s₂ t₁ t₂ hfreq h₁ h₂
  obtain ⟨u₁, hu₁, hnode₁, hcount₁, hroot₁, hleaf₁, -⟩ := exec_build s₁
  obtain ⟨u₂, hu₂, hnode₂, hcount₂, hroot₂, hleaf₂, -⟩ := exec_build s₂
  obtain rfl := Host.Outcome.next.inj (h₁.symm.trans hu₁)
  obtain rfl := Host.Outcome.next.inj (h₂.symm.trans hu₂)
  rw [← hfreq] at hnode₂ hcount₂ hroot₂ hleaf₂
  refine ⟨BitVec.eq_of_toNat_eq (hcount₁.trans hcount₂.symm), hroot₁.trans hroot₂.symm,
    BitVec.eq_of_toNat_eq (hleaf₁.trans hleaf₂.symm), fun n hn => ?_⟩
  rw [hcount₁, ← length_buildTree] at hn
  have hlt := hn.trans_le (length_buildTree_le s₁.freq)
  rw [hnode₁, hnode₂, getElem?_writeNodes_of_lt _ hlt hn, getElem?_writeNodes_of_lt _ hlt hn]

end Sys2Proof.Machine
end

section
/-! GENLUT (41_encoder.md R180-R184): what it writes (O25), that no path of a tree begins another (O26), and
that the paths share out the binary strings of any length that none of them exceeds (O27). -/

namespace Sys2Proof.Machine

/-! ### The state GENLUT leaves -/

/-- With a valid tree GENLUT writes the code table of the nodes the walk meets, and nothing else (R180). -/
theorem exec_genlut {s : State} {vs : List Visit} (hv : s.treeValid = true) (hvs : s.treeVisits = some vs) :
    ∃ t : State, exec .genlut s = .next t ∧ t.succeeded 0 ∧ t.lutValid = true ∧ t.lut = lutOf vs ∧
      s.sameInputs t ∧ s.sameTree t ∧ s.sameMemory t ∧ t.bitCount = s.bitCount := by
  have h : exec .genlut s = .next (({ s with lut := lutOf vs, lutValid := true } : State).finish 0) := by
    simp [exec, execGenlut, hv, hvs]
  exact ⟨_, h, ⟨rfl, rfl, rfl, rfl, rfl, rfl⟩, rfl, rfl, exec_sameInputs h,
    exec_sameTree (by decide) (by decide) h, exec_table_sameMemory (.inr rfl) h,
    exec_bitCount_eq (by decide) (by decide) h⟩

/-- Settles O25: the walk over the held tree is its pre-order, whose leaves carry the paths, and the walk over the
empty tree meets no leaf. -/
theorem genlutWritesPathCodes : Obligations.GenlutWritesPathCodes := by
  intro s hv
  refine ⟨fun T hT => ?_, fun h0 => ?_⟩
  · obtain ⟨-, -, -, hnd, -⟩ := id hT
    obtain ⟨t, h, hok, hvalid, hlut, hframe⟩ := exec_genlut hv (State.treeVisits_holdsTree hT)
    exact ⟨t, h, hok, hvalid, hlut ▸ codeAt_lutOf_visitsFrom T hnd, hframe⟩
  · obtain ⟨t, h, hok, hvalid, hlut, hframe⟩ := exec_genlut hv (State.treeVisits_emptyTree h0)
    exact ⟨t, h, hok, hvalid, hlut ▸ codeAt_replicate [], hframe⟩

/-- Whatever state GENLUT ends in, its table holds the codes of the tree. -/
theorem codeAt_of_genlut {s t : State} {T : Tree} (hv : s.treeValid = true) (hT : s.holdsTree T)
    (h : exec .genlut s = .next t) (sym : Symbol) : codeAt t.lut sym = T.codeOf sym := by
  obtain ⟨hheld, -⟩ := genlutWritesPathCodes s hv
  obtain ⟨u, hu, -, -, hcode, -⟩ := hheld T hT
  obtain rfl := Host.Outcome.next.inj (h.symm.trans hu)
  exact hcode sym

/-! ### Codes and paths -/

theorem Tree.mem_symbols_iff {T : Tree} {sym : Symbol} : sym ∈ T.symbols ↔ ∃ p, (sym, p) ∈ T.paths := by
  rw [← T.map_fst_paths, List.mem_map]
  exact ⟨fun ⟨⟨_, p⟩, hp, rfl⟩ => ⟨p, hp⟩, fun ⟨p, hp⟩ => ⟨_, hp, rfl⟩⟩

/-- A path of an inner node is a branch and a path of the child it leads to. -/
theorem Tree.mem_paths_node {i : NodeIdx} {w : Weight} {l r : Tree} {sym : Symbol} {p : Code} :
    (sym, p) ∈ (Tree.node i w l r).paths ↔
      (∃ q, (sym, q) ∈ l.paths ∧ p = false :: q) ∨ ∃ q, (sym, q) ∈ r.paths ∧ p = true :: q := by
  simp [Tree.paths, eq_comm]

/-- In a tree of two or more leaves the code of a leaf's symbol is its path (R181). -/
theorem Tree.codeOf_eq_of_mem_paths {T : Tree} (hnd : T.symbols.Nodup) (h2 : 2 ≤ T.symbols.length)
    {p : Symbol × Code} (hp : p ∈ T.paths) : T.codeOf p.1 = p.2 := by
  cases T with
  | leaf => simp [Tree.symbols] at h2
  | node i w l r =>
    rw [Tree.codeOf_node]
    cases hf : (Tree.node i w l r).paths.find? fun q => q.1 == p.1 with
    | none => exact absurd (beq_self_eq_true p.1) (List.find?_eq_none.1 hf p hp)
    | some q =>
      rw [← Tree.map_fst_paths] at hnd
      have hq : q = p :=
        List.inj_on_of_nodup_map hnd (List.mem_of_find?_eq_some hf) hp (by simpa using List.find?_some hf)
      rw [hq, Option.map_some, Option.getD_some]

/-- The symbols with a code are those of the tree (R184 (a)). -/
theorem Tree.codeOf_ne_nil_iff (T : Tree) (sym : Symbol) : T.codeOf sym ≠ [] ↔ sym ∈ T.symbols := by
  cases T with
  | leaf i a w => simp [Tree.codeOf, Tree.symbols]
  | node i w l r =>
    rw [Tree.mem_symbols_iff, Tree.codeOf_node]
    cases hf : (Tree.node i w l r).paths.find? fun q => q.1 == sym with
    | none =>
      have hnone : ∀ p, (sym, p) ∉ (Tree.node i w l r).paths := fun p hp =>
        List.find?_eq_none.1 hf _ hp (beq_self_eq_true sym)
      simp [hnone]
    | some q =>
      have hmem := List.mem_of_find?_eq_some hf
      obtain rfl : q.1 = sym := by simpa using List.find?_some hf
      have hne : q.2 ≠ [] := by
        rcases Tree.mem_paths_node.1 hmem with ⟨p, -, e⟩ | ⟨p, -, e⟩ <;> simp [e]
      simpa [hne] using ⟨q.2, hmem⟩

/-- A path that begins another leads to the same leaf: on the way to a leaf there is no other. -/
theorem Tree.symbol_eq_of_path_isPrefix (T : Tree) {a b : Symbol} {p q : Code} (ha : (a, p) ∈ T.paths)
    (hb : (b, q) ∈ T.paths) (h : p <+: q) : a = b := by
  induction T generalizing p q with
  | leaf => simp_all [Tree.paths]
  | node i w l r ihl ihr =>
    rcases Tree.mem_paths_node.1 ha with ⟨p, hp, rfl⟩ | ⟨p, hp, rfl⟩ <;>
      rcases Tree.mem_paths_node.1 hb with ⟨q, hq, rfl⟩ | ⟨q, hq, rfl⟩
    · exact ihl hp hq (List.cons_prefix_cons.1 h).2
    · cases (List.cons_prefix_cons.1 h).1
    · cases (List.cons_prefix_cons.1 h).1
    · exact ihr hp hq (List.cons_prefix_cons.1 h).2

/-- Settles O26: the table holds the tree's codes, a coded symbol is a leaf's, and the codes of two leaves are paths
of which neither begins the other. -/
theorem genlutCodesArePrefixFree : Obligations.GenlutCodesArePrefixFree := by
  intro s t T hv hT h
  obtain ⟨-, -, -, hnd, hleaves⟩ := id hT
  simp only [codeAt_of_genlut hv hT h]
  refine ⟨T.codeOf_ne_nil_iff, fun h2 a b ha hb hne hpre => hne ?_⟩
  rw [← hleaves] at h2
  obtain ⟨p, hp⟩ := Tree.mem_symbols_iff.1 ha
  obtain ⟨q, hq⟩ := Tree.mem_symbols_iff.1 hb
  rw [Tree.codeOf_eq_of_mem_paths hnd h2 hp, Tree.codeOf_eq_of_mem_paths hnd h2 hq] at hpre
  exact T.symbol_eq_of_path_isPrefix hp hq hpre

/-! ### Completeness -/

/-- Each binary string of `n` bits begins with exactly one path, so the paths share out all `2 ^ n` of them: half of
them lie below either child of the root. -/
theorem Tree.sum_two_pow_paths (T : Tree) {n : Nat} (hn : ∀ p ∈ T.paths, p.2.length ≤ n) :
    (T.paths.map fun p => 2 ^ (n - p.2.length)).sum = 2 ^ n := by
  induction T generalizing n with
  | leaf => simp [Tree.paths]
  | node i w l r ihl ihr =>
    simp only [Tree.paths, List.forall_mem_append, List.forall_mem_map, List.length_cons] at hn
    obtain ⟨hl, hr⟩ := hn
    cases n with
    | zero =>
      have hnil : l.paths = [] := List.eq_nil_iff_forall_not_mem.2 fun p hp => by simpa using hl p hp
      have hlen := l.length_indices
      rw [← l.map_fst_paths, hnil] at hlen
      cases hlen
    | succ m =>
      simp only [Tree.paths, List.map_append, List.map_map, Function.comp_def, List.length_cons,
        Nat.add_sub_add_right, List.sum_append]
      rw [ihl fun p hp => Nat.le_of_succ_le_succ (hl p hp), ihr fun p hp => Nat.le_of_succ_le_succ (hr p hp),
        pow_succ, mul_two]

/-- Settles O27: the coded symbols are the leaves, whose codes are their paths of at most 255 branches. -/
theorem genlutCodesAreComplete : Obligations.GenlutCodesAreComplete := by
  intro s t T hv hT h2 h
  obtain ⟨-, -, -, hnd, hleaves⟩ := id hT
  rw [← hleaves] at h2
  simp only [codeAt_of_genlut hv hT h]
  calc
    (T.symbols.map fun sym => 2 ^ (255 - (T.codeOf sym).length)).sum
        = (T.paths.map fun p => 2 ^ (255 - (T.codeOf p.1).length)).sum := by
      rw [← T.map_fst_paths, List.map_map]
      rfl
    _ = (T.paths.map fun p => 2 ^ (255 - p.2.length)).sum := by
      rw [List.map_congr_left fun p hp => by rw [Tree.codeOf_eq_of_mem_paths hnd h2 hp]]
    _ = 2 ^ 255 := T.sum_two_pow_paths hT.path_length_le

end Sys2Proof.Machine
end

section
/-! ENCODE (41_encoder.md R185-R190): the bits of the source and the first byte without a code, what each outcome
leaves, and the packed bytes (O28 to O31). -/

namespace Sys2Proof.Machine

/-! ### Concatenating codes -/

/-- When every symbol has a code, the codes are concatenated (R187). -/
theorem encodeSymbols_coded (t : Vector Code 256) (i : Nat) {bs : List Byte} (h : ∀ b ∈ bs, codeAt t b ≠ []) :
    encodeSymbols t i bs = .ok (bs.flatMap (codeAt t)) := by
  induction bs generalizing i with
  | nil => rfl
  | cons b bs ih =>
    obtain ⟨hb, hbs⟩ := List.forall_mem_cons.1 h
    rw [encodeSymbols, if_neg hb, ih (i + 1) hbs, List.flatMap_cons]

/-- The first symbol without a code is reported with its offset (R186). -/
theorem encodeSymbols_unknown (t : Vector Code 256) (i : Nat) {bs : List Byte} {k : Nat} {b : Byte}
    (hb : bs[k]? = some b) (hnil : codeAt t b = [])
    (hfirst : ∀ (j : Nat) (c : Byte), j < k → bs[j]? = some c → codeAt t c ≠ []) :
    encodeSymbols t i bs = .error ⟨.unknownSymbol, b, BitVec.ofNat 32 (i + k)⟩ := by
  induction bs generalizing i k with
  | nil => cases hb
  | cons c bs ih =>
    cases k with
    | zero =>
      obtain rfl := Option.some.inj hb
      rw [encodeSymbols, if_pos hnil, Nat.add_zero]
    | succ k =>
      rw [encodeSymbols, if_neg (hfirst 0 c k.succ_pos rfl),
        ih (i + 1) (k := k) hb fun j d hj => hfirst (j + 1) d (Nat.succ_lt_succ hj),
        Nat.add_right_comm, Nat.add_assoc]

/-- If some symbol has no code, there is a first one. -/
theorem exists_first_uncoded (t : Vector Code 256) {bs : List Byte} (h : ∃ b ∈ bs, codeAt t b = []) :
    ∃ (k : Nat) (b : Byte), bs[k]? = some b ∧ codeAt t b = [] ∧
      ∀ (j : Nat) (c : Byte), j < k → bs[j]? = some c → codeAt t c ≠ [] := by
  have hlt : bs.findIdx (fun b => codeAt t b == []) < bs.length :=
    List.findIdx_lt_length.2 (by simpa using h)
  refine ⟨_, _, List.getElem?_eq_getElem hlt, by simpa using List.findIdx_getElem (w := hlt), fun j c hj hc => ?_⟩
  obtain ⟨_, rfl⟩ := List.getElem?_eq_some_iff.1 hc
  simpa using List.not_of_lt_findIdx hj

/-- Codes of at most 255 bits make at most 255 bits per symbol (R190). -/
theorem State.CodesFit.length_flatMap_le {s : State} (h : s.CodesFit) (bs : List Byte) :
    (bs.flatMap (codeAt s.lut)).length ≤ 255 * bs.length := by
  induction bs with
  | nil => exact Nat.le_refl 0
  | cons b bs ih =>
    have hb := h b
    rw [List.flatMap_cons, List.length_append, List.length_cons]
    omega

/-! ### Packed bytes -/

@[simp] theorem length_packBits (bits : List Bool) : (packBits bits).length = ceil8 bits.length := by
  simp [packBits]

/-- Bit `7 - m` of packed byte `j` is bit `8j + m` of the sequence, and 0 past its end (30_encoding.md R130, R131). -/
theorem getLsbD_packedByte (bits : List Bool) (j : Nat) {m : Nat} (hm : m < 8) :
    (packedByte bits j).getLsbD (7 - m) = bits.getD (8 * j + m) false := by
  have h := getLsbD_foldl_bits (w := 7) (n := 8) (i := 7 - m) (fun m => bits.getD (8 * j + m) false)
    le_rfl (Nat.sub_le 7 m)
  rw [show 7 - (7 - m) = m by omega] at h
  exact h.trans (by simp [hm])

/-- The packed bits read back from DMEM one by one. -/
theorem State.getLsbD_byteAt_storeDst_packBits (s : State) (bits : List Bool) {j : Nat}
    (hj : j < 8 * ceil8 bits.length) :
    ((s.storeDst (packBits bits)).byteAt (s.dstAddr.toNat + j / 8)).getLsbD (7 - j % 8) = bits.getD j false := by
  have hlt : j / 8 < (packBits bits).length := by
    rw [length_packBits]
    omega
  have hbyte : (s.storeDst (packBits bits)).byteAt (s.dstAddr.toNat + j / 8) = packedByte bits (j / 8) := by
    rw [State.storeDst, State.byteAt_store_inside s hlt]
    simp [packBits]
  rw [hbyte, getLsbD_packedByte bits (j / 8) (Nat.mod_lt j (by decide)), Nat.div_add_mod]

/-! ### The outcomes of ENCODE -/

/-- The state ENCODE leaves when the packed bits fit the destination: the bytes at DST_ADDR, BITCOUNT and OUT_LEN
(R189, R190). -/
def State.encoded (s : State) (bits : List Bool) : State :=
  { s.storeDst (packBits bits) with bitCount := BitVec.ofNat 32 bits.length }.finish (ceil8 bits.length)

section
variable {s : State} (hv : s.lutValid = true) (hr : s.rangesFit)
include hv hr

theorem exec_encode_of_error {e : Error} (he : encodeSymbols s.lut 0 s.srcBytes = .error e) :
    exec .encode s = .next (s.raise e) := by
  simp [exec, execEncode, hv, (State.rangeError_eq_none s).2 hr, he]

theorem exec_encode_of_fits {bits : List Bool} (hb : encodeSymbols s.lut 0 s.srcBytes = .ok bits)
    (hcap : ceil8 bits.length ≤ s.dstCap.toNat) : exec .encode s = .next (s.encoded bits) := by
  simp [exec, execEncode, hv, (State.rangeError_eq_none s).2 hr, hb, Nat.not_lt.2 hcap, State.encoded]

theorem exec_encode_of_exceeds {bits : List Bool} (hb : encodeSymbols s.lut 0 s.srcBytes = .ok bits)
    (hcap : s.dstCap.toNat < ceil8 bits.length) :
    exec .encode s = .next (s.raise (capacityError (ceil8 bits.length))) := by
  simp [exec, execEncode, hv, (State.rangeError_eq_none s).2 hr, hb, hcap]

/-- Some byte without a code is reported, whatever DST_CAP is (R186, R188). -/
theorem exec_encode_of_uncoded (hu : ∃ b ∈ s.srcBytes, codeAt s.lut b = []) :
    ∃ k b, exec .encode s = .next (s.raise ⟨.unknownSymbol, b, BitVec.ofNat 32 k⟩) := by
  obtain ⟨k, b, hb, hnil, hfirst⟩ := exists_first_uncoded s.lut hu
  exact ⟨_, b, exec_encode_of_error hv hr (encodeSymbols_unknown s.lut 0 hb hnil hfirst)⟩

end

/-- ENCODE reports no error only when every byte has a code and the packed bits fit (R185-R188). -/
theorem exec_encode_success {s t : State} (h : exec .encode s = .next t) (hok : t.errCode = .none) :
    s.rangesFit ∧ t = s.encoded (s.srcBytes.flatMap (codeAt s.lut)) := by
  have hfail : ∀ {e : Error}, exec .encode s = .next (s.raise e) → e.code = .none := by
    intro e he
    obtain rfl := Host.Outcome.next.inj (h.symm.trans he)
    rwa [State.raise_errCode] at hok
  cases hv : s.lutValid with
  | false => cases hfail (e := ⟨.noLut, 0, 0⟩) (by simp [exec, execEncode, hv])
  | true =>
    cases hre : s.rangeError with
    | some e =>
      have hnone := hfail (e := e) (by simp [exec, execEncode, hv, hre])
      rcases State.rangeError_code hre with hc | hc <;> rw [hc] at hnone <;> cases hnone
    | none =>
      have hr := (State.rangeError_eq_none s).1 hre
      by_cases hu : ∃ b ∈ s.srcBytes, codeAt s.lut b = []
      · obtain ⟨k, b, he⟩ := exec_encode_of_uncoded hv hr hu
        cases hfail he
      · have hb := encodeSymbols_coded s.lut 0 fun b hb hnil => hu ⟨b, hb, hnil⟩
        rcases Nat.lt_or_ge s.dstCap.toNat (ceil8 (s.srcBytes.flatMap (codeAt s.lut)).length) with hcap | hcap
        · cases hfail (exec_encode_of_exceeds hv hr hb hcap)
        · exact ⟨hr, Host.Outcome.next.inj (h.symm.trans (exec_encode_of_fits hv hr hb hcap))⟩

/-! ### The obligations -/

/-- Settles O28: every byte has a code, so the bits are the concatenation, and they are stored packed. -/
theorem encodePacksCodes : Obligations.EncodePacksCodes := by
  intro s hv hr hc hcap
  have h := exec_encode_of_fits hv hr (encodeSymbols_coded s.lut 0 hc) hcap
  exact ⟨_, h, ⟨rfl, rfl, rfl, rfl, rfl, rfl⟩, rfl, fun j => s.getLsbD_byteAt_storeDst_packBits _,
    fun a ha => s.byteAt_store_outside (by rwa [length_packBits]), exec_sameInputs h,
    exec_sameTree (by decide) (by decide) h, rfl, rfl⟩

/-- Settles O29: ENCODE raises the error of the first byte without a code. -/
theorem encodeReportsFirstUnknownSymbol : Obligations.EncodeReportsFirstUnknownSymbol := by
  intro s i b hv hr hb hnil hfirst
  have he := encodeSymbols_unknown s.lut 0 hb hnil hfirst
  rw [Nat.zero_add] at he
  exact ⟨_, exec_encode_of_error hv hr he, s.raise_failedWith _⟩

/-- Settles O30: only with every byte coded is there a length to compare, and an error leaves BITCOUNT alone. -/
theorem encodeChecksCapacityLast : Obligations.EncodeChecksCapacityLast := by
  intro s hv hr
  refine ⟨fun hc hcap => ?_, fun hu => ?_⟩
  · exact ⟨_, exec_encode_of_exceeds hv hr (encodeSymbols_coded s.lut 0 hc) hcap, s.raise_bitCount _,
      s.raise_failedWith _⟩
  · obtain ⟨k, b, h⟩ := exec_encode_of_uncoded hv hr hu
    exact ⟨_, h, s.raise_bitCount _, s.raise_errCode _⟩

/-- Settles O31: the source has at most DMEM_BYTES bytes of at most 255 bits each, so nothing is lost in 32 bits. -/
theorem encodeBitCountFits : Obligations.EncodeBitCountFits := by
  intro s t hm hfit h hok
  obtain ⟨hr, rfl⟩ := exec_encode_success h hok
  have hbits := hfit.length_flatMap_le s.srcBytes
  have hsrc : s.srcBytes.length = s.srcLen.toNat := s.length_bytesAt _ _
  have hlen : s.srcLen.toNat ≤ 65536 := by
    obtain ⟨hcfg, -⟩ := hm
    obtain ⟨hle, -⟩ := hr
    simp only [Config.Params.wellFormed, Bool.and_eq_true, decide_eq_true_eq] at hcfg
    omega
  rw [hsrc] at hbits
  have hcount : (s.encoded (s.srcBytes.flatMap (codeAt s.lut))).bitCount.toNat =
      (s.srcBytes.flatMap (codeAt s.lut)).length := Nat.mod_eq_of_lt (by omega)
  have hout : (s.encoded (s.srcBytes.flatMap (codeAt s.lut))).outLen.toNat =
      ceil8 (s.srcBytes.flatMap (codeAt s.lut)).length := Nat.mod_eq_of_lt (by unfold ceil8; omega)
  rw [hout, hcount]
  exact ⟨rfl, hbits, by omega, rfl⟩

end Sys2Proof.Machine
end

section
/-! DECODE (42_decoder.md R210-R218): what it reports apart from what that does to the state, walks that are codes and
walks that end inside one, and the bits that ENCODE left (O32 to O37). -/

namespace Sys2Proof.Machine

/-! ### The report and its delivery -/

/-- What DECODE reports: the first error of R267's order, or the symbols to write (R210, R216). -/
def State.decodeReport (s : State) : Decoded :=
  if !s.treeValid then .failed ⟨.noTree, 0, 0⟩
  else
    match s.rangeError with
    | some e => .failed e
    | none =>
      if s.bitBytes > s.srcLen.toNat then .failed (lengthError s.bitBytes)
      else
        match s.decodeBits s.bitCount.toNat with
        | .symbols out =>
          if out.length > s.dstCap.toNat then .failed (capacityError out.length) else .symbols out
        | .failed e => .failed e
        | .notATree => .notATree

/-- What a report of DECODE does to the state (R210, R217). -/
def State.deliver (s : State) : Decoded → Host.Outcome State Fault Refusal
  | .symbols out => .next ((s.storeDst out).finish out.length)
  | .failed e => .next (s.raise e)
  | .notATree => .fault .notATree

theorem exec_decode (s : State) : exec .decode s = s.deliver s.decodeReport := by
  simp only [exec, execDecode, State.decodeReport]
  cases s.treeValid with
  | false => rfl
  | true =>
    cases s.rangeError with
    | some e => rfl
    | none =>
      by_cases hl : s.bitBytes > s.srcLen.toNat
      · simp [hl, State.deliver]
      · cases s.decodeBits s.bitCount.toNat with
        | notATree => simp [hl, State.deliver]
        | failed e => simp [hl, State.deliver]
        | symbols out => by_cases hcap : out.length > s.dstCap.toNat <;> simp [hl, hcap, State.deliver]

theorem State.getElem?_bytesAt (s : State) (a : Nat) {n k : Nat} (h : k < n) :
    (s.bytesAt a n)[k]? = some (s.byteAt (a + k)) := by
  simp [State.bytesAt, h]

/-- An error DECODE reports is the one the state shows (60_exceptions.md R264). -/
theorem exec_decode_failed {s : State} {e : Error} (h : s.decodeReport = .failed e) :
    ∃ t : State, exec .decode s = .next t ∧ t.failedWith e :=
  ⟨s.raise e, by rw [exec_decode, h, State.deliver], s.raise_failedWith e⟩

/-- The symbols DECODE reports stand one byte each from DST_ADDR on, and all else stays (R217). -/
theorem exec_decode_symbols {s : State} {out : List Symbol} (h : s.decodeReport = .symbols out) :
    ∃ t : State, exec .decode s = .next t ∧ t.succeeded out.length ∧
      t.bytesAt s.dstAddr.toNat out.length = out ∧
      s.sameMemoryBut t s.dstAddr.toNat out.length ∧ s.sameInputs t ∧ s.sameTree t ∧
      s.sameCodes t ∧ t.bitCount = s.bitCount := by
  have ht : exec .decode s = .next ((s.storeDst out).finish out.length) := by
    rw [exec_decode, h, State.deliver]
  exact ⟨_, ht, ⟨rfl, rfl, rfl, rfl, rfl, rfl⟩, s.bytesAt_store s.dstAddr.toNat out,
    fun _ ha => s.byteAt_store_outside ha, exec_sameInputs ht, exec_sameTree (by decide) (by decide) ht,
    ⟨rfl, rfl⟩, rfl⟩

section
variable {s : State} (hv : s.treeValid = true) (hr : s.rangesFit)
  (hl : ceil8 s.bitCount.toNat ≤ s.srcLen.toNat)
include hv hr hl

theorem State.decodeReport_of_failed {e : Error} (hd : s.decodeBits s.bitCount.toNat = .failed e) :
    s.decodeReport = .failed e := by
  simp [State.decodeReport, hv, (State.rangeError_eq_none s).2 hr, State.bitBytes, Nat.not_lt.2 hl, hd]

theorem State.decodeReport_of_fits {out : List Symbol} (hd : s.decodeBits s.bitCount.toNat = .symbols out)
    (hcap : out.length ≤ s.dstCap.toNat) : s.decodeReport = .symbols out := by
  simp [State.decodeReport, hv, (State.rangeError_eq_none s).2 hr, State.bitBytes, Nat.not_lt.2 hl, hd,
    Nat.not_lt.2 hcap]

theorem State.decodeReport_of_exceeds {out : List Symbol} (hd : s.decodeBits s.bitCount.toNat = .symbols out)
    (hcap : s.dstCap.toNat < out.length) : s.decodeReport = .failed (capacityError out.length) := by
  simp [State.decodeReport, hv, (State.rangeError_eq_none s).2 hr, State.bitBytes, Nat.not_lt.2 hl, hd, hcap]

end

/-! ### Walks -/

/-- The codes of symbols of the tree lead from the root to each of their leaves in turn and back to the root (R214). -/
theorem walkBits_flatMap_codeOf {t : Vector Node 511} {T : Tree} (hT : T.heldBy t) (hnd : T.symbols.Nodup)
    (h2 : 2 ≤ T.symbols.length) {out : List Symbol} (hout : ∀ sym ∈ out, sym ∈ T.symbols) (rest : List Bool)
    (j : Nat) :
    walkBits t T.idx (out.flatMap T.codeOf ++ rest) j T.idx j =
      (walkBits t T.idx rest (j + (out.flatMap T.codeOf).length) T.idx
        (j + (out.flatMap T.codeOf).length)).map fun w => { w with out := out ++ w.out } := by
  induction out generalizing j with
  | nil => simp
  | cons sym out ih =>
    obtain ⟨hsym, hout⟩ := List.forall_mem_cons.1 hout
    obtain ⟨p, hp⟩ := Tree.mem_symbols_iff.1 hsym
    have hcode : T.codeOf sym = p := Tree.codeOf_eq_of_mem_paths hnd h2 hp
    have hne : p ≠ [] := hcode ▸ (T.codeOf_ne_nil_iff sym).2 hsym
    rw [List.flatMap_cons, hcode, List.append_assoc, walkBits_path T hT hp hne, ih hout, List.length_append,
      ← Nat.add_assoc, Option.map_map]
    rfl

theorem Tree.mem_paths_leaf {i : NodeIdx} {a sym : Symbol} {w : Weight} {p : Code} :
    (sym, p) ∈ (Tree.leaf i a w).paths ↔ sym = a ∧ p = [] := by
  simp [Tree.paths]

/-- A branch towards a leaf, with branches left to go, is one step of the walk inside the same codeword (R214). -/
theorem walkBits_branch {t : Vector Node 511} (root : NodeIdx) {i l r : NodeIdx} {w : Weight}
    (e : nodeAt t i = some (.internal w l r)) {b : Bool} {T : Tree} (hT : T.heldBy t)
    (hchild : T.idx = childOn b l r) {sym : Symbol} {p q : Code} (hq : (sym, q) ∈ T.paths) (hp : p <+: q)
    (hne : p ≠ q) (j start : Nat) :
    walkBits t root (b :: p) j i start = walkBits t root p (j + 1) T.idx start := by
  cases T with
  | leaf =>
    obtain ⟨-, rfl⟩ := Tree.mem_paths_leaf.1 hq
    exact absurd (List.prefix_nil.1 hp) hne
  | node i' w' l' r' =>
    obtain ⟨e', -⟩ := hT
    simp only [Tree.idx_node] at hchild
    simp [walkBits, e, ← hchild, e']

/-- A path that stops short of its leaf ends at an inner node, below the root when it has a branch. -/
theorem walkBits_proper_prefix {t : Vector Node 511} (root : NodeIdx) {T : Tree} (hT : T.heldBy t) {sym : Symbol}
    {p q : Code} (hq : (sym, q) ∈ T.paths) (hp : p <+: q) (hne : p ≠ q) (j start : Nat) :
    ∃ cur, walkBits t root p j T.idx start = some ⟨[], cur, start⟩ ∧ cur.toNat ∈ T.indices ∧
      (p ≠ [] → cur.toNat ∈ T.inner) := by
  induction T generalizing p q j with
  | leaf i a w =>
    obtain ⟨-, rfl⟩ := Tree.mem_paths_leaf.1 hq
    exact absurd (List.prefix_nil.1 hp) hne
  | node i w l r ihl ihr =>
    obtain ⟨e, hl, hr⟩ := hT
    cases p with
    | nil => exact ⟨i, rfl, Tree.idx_mem_indices _, fun h => absurd rfl h⟩
    | cons b p =>
      rcases Tree.mem_paths_node.1 hq with ⟨q, hq', rfl⟩ | ⟨q, hq', rfl⟩
      · obtain ⟨rfl, hp'⟩ := List.cons_prefix_cons.1 hp
        have hne' : p ≠ q := mt (congrArg _) hne
        obtain ⟨cur, hwalk, hcur, -⟩ := ihl hl hq' hp' hne' (j + 1)
        have hinner : cur.toNat ∈ (Tree.node i w l r).inner := List.mem_append_left _ hcur
        exact ⟨cur, (walkBits_branch root e hl rfl hq' hp' hne' j start).trans hwalk,
          Tree.mem_indices_of_mem_inner hinner, fun _ => hinner⟩
      · obtain ⟨rfl, hp'⟩ := List.cons_prefix_cons.1 hp
        have hne' : p ≠ q := mt (congrArg _) hne
        obtain ⟨cur, hwalk, hcur, -⟩ := ihr hr hq' hp' hne' (j + 1)
        have hinner : cur.toNat ∈ (Tree.node i w l r).inner := List.mem_append_right _ hcur
        exact ⟨cur, (walkBits_branch root e hr rfl hq' hp' hne' j start).trans hwalk,
          Tree.mem_indices_of_mem_inner hinner, fun _ => hinner⟩

/-! ### The bits of a source -/

@[simp] theorem State.length_srcBits (s : State) (n : Nat) : (s.srcBits n).length = n := by
  simp [State.srcBits]

theorem State.decodeBits_zero_nodes {s : State} (hn : s.nodeCount = 0) (nb : Nat) :
    s.decodeBits nb = if nb > 0 then .failed ⟨.corruptTree, 0, 0⟩ else .symbols [] := by
  rw [State.decodeBits, if_pos hn]

/-- A lone leaf stands for every bit (R213). -/
theorem State.decodeBits_leaf {s : State} (hn : s.nodeCount ≠ 0) {sym : Symbol} {w : Weight}
    (e : nodeAt s.node s.root = some (.leaf sym w)) (nb : Nat) :
    s.decodeBits nb = .symbols (List.replicate nb sym) := by
  rw [State.decodeBits, if_neg hn]
  simp [e]

/-- With two or more leaves the walk from the root decides (R214, R215). -/
theorem State.holdsTree.decodeBits_walk {s : State} {T : Tree} (h : s.holdsTree T) (h2 : 2 ≤ T.symbols.length)
    {nb : Nat} {w : Walk} (hw : walkBits s.node T.idx (s.srcBits nb) 0 T.idx 0 = some w) :
    s.decodeBits nb =
      if w.cur = T.idx then .symbols w.out else .failed ⟨.traversal, 0, BitVec.ofNat 32 w.start⟩ := by
  rw [State.decodeBits, if_neg h.nodeCount_ne_zero]
  obtain ⟨hroot, hheld, -⟩ := h
  cases T with
  | leaf => simp [Tree.symbols] at h2
  | node i wt l r =>
    obtain ⟨e, -⟩ := hheld
    rw [Tree.idx_node] at hroot hw ⊢
    subst hroot
    simp only [e, hw]

/-- The codes of symbols of the held tree decode to those symbols, for a lone leaf too (R213, R214). -/
theorem State.holdsTree.decodeBits_codes {s : State} {T : Tree} (h : s.holdsTree T) {out : List Symbol} {nb : Nat}
    (hout : ∀ sym ∈ out, sym ∈ T.symbols) (hbits : s.srcBits nb = out.flatMap T.codeOf) :
    s.decodeBits nb = .symbols out := by
  obtain ⟨hroot, hheld, -, hnd, -⟩ := id h
  cases T with
  | leaf i a w =>
    have hsym : ∀ sym ∈ out, sym = a := by simpa [Tree.symbols] using hout
    have hlen : nb = out.length := by
      have hcodes : out.flatMap (Tree.leaf i a w).codeOf = out.flatMap fun _ => [false] :=
        List.flatMap_congr fun sym hs => if_pos (hsym sym hs)
      simpa [hcodes] using congrArg List.length hbits
    rw [Tree.idx_leaf] at hroot
    subst hroot
    rw [State.decodeBits_leaf h.nodeCount_ne_zero hheld, hlen, ← List.eq_replicate_of_mem hsym]
  | node i w l r =>
    have h2 : 2 ≤ (Tree.node i w l r).symbols.length := by
      have hl := l.length_indices
      have hr := r.length_indices
      simp only [Tree.symbols, List.length_append]
      omega
    have hwalk := walkBits_flatMap_codeOf hheld hnd h2 hout [] 0
    rw [List.append_nil, ← hbits] at hwalk
    rw [h.decodeBits_walk h2 hwalk, if_pos rfl]
    simp

/-- Bits that stop inside a code are reported at that code's first bit (R215). -/
theorem State.holdsTree.decodeBits_unfinished {s : State} {T : Tree} (h : s.holdsTree T) (h2 : 2 ≤ s.leafCount.toNat)
    {out : List Symbol} (hout : ∀ a ∈ out, a ∈ T.symbols) {sym : Symbol} (hsym : sym ∈ T.symbols) {p : Code}
    (hp : p <+: T.codeOf sym) (hp0 : p ≠ []) (hne : p ≠ T.codeOf sym) {nb : Nat}
    (hbits : s.srcBits nb = out.flatMap T.codeOf ++ p) :
    s.decodeBits nb = .failed ⟨.traversal, 0, BitVec.ofNat 32 (out.flatMap T.codeOf).length⟩ := by
  have hidx := h.nodup_indices
  obtain ⟨-, hheld, -, hnd, hleaves⟩ := id h
  rw [← hleaves] at h2
  obtain ⟨q, hq⟩ := Tree.mem_symbols_iff.1 hsym
  rw [Tree.codeOf_eq_of_mem_paths hnd h2 hq] at hp hne
  have hwalk := walkBits_flatMap_codeOf hheld hnd h2 hout p 0
  rw [Nat.zero_add, ← hbits] at hwalk
  obtain ⟨cur, hend, -, hcur⟩ := walkBits_proper_prefix T.idx hheld hq hp hne (out.flatMap T.codeOf).length
    (out.flatMap T.codeOf).length
  rw [hend] at hwalk
  have hbelow : cur ≠ T.idx := by
    rintro rfl
    rw [T.indices_eq_cons] at hidx
    exact (List.nodup_cons.1 hidx).1 (hcur hp0)
  rw [h.decodeBits_walk h2 hwalk, if_neg hbelow]

/-- The bits decoded are those counted, and no others (R211). -/
theorem State.decodeBits_congr {s : State} {m : List Host.Cell} {nb : Nat}
    (h : ∀ j : Nat, j < nb → ({ s with dmem := m } : State).srcBit j = s.srcBit j) :
    ({ s with dmem := m } : State).decodeBits nb = s.decodeBits nb := by
  have hbits : ({ s with dmem := m } : State).srcBits nb = s.srcBits nb :=
    List.map_congr_left fun j hj => h j (List.mem_range.1 hj)
  simp only [State.decodeBits, hbits]

/-- The report depends on memory through the counted bits alone (R211). -/
theorem State.decodeReport_congr {s : State} {m : List Host.Cell}
    (h : ∀ j : Nat, j < s.bitCount.toNat → ({ s with dmem := m } : State).srcBit j = s.srcBit j) :
    ({ s with dmem := m } : State).decodeReport = s.decodeReport := by
  unfold State.decodeReport
  rw [State.decodeBits_congr h]
  rfl

/-! ### Decoding what was encoded -/

/-- The codes of a valid table are paths of its tree, so none is longer than 255 bits (10_state.md R57, R59). -/
theorem State.TreeInv.codesFit {s : State} (hT : s.TreeInv) (hL : s.LutInv) (hv : s.lutValid = true) : s.CodesFit := by
  obtain ⟨htree, ⟨-, hcodes⟩ | ⟨T, hheld, hcodes⟩⟩ := hL hv
  · exact fun sym => by simp [hcodes sym]
  · obtain ⟨-, -, -, hnd, -⟩ := id hheld
    intro sym
    rw [hcodes sym, ← codeAt_lutOf_visitsFrom T hnd sym]
    exact hT.length_genlut_code_le htree (State.treeVisits_holdsTree hheld) sym

/-- ENCODE that reports no error had a table with a code for every source byte (41_encoder.md R185, R186). -/
theorem exec_encode_success_coded {s t : State} (h : exec .encode s = .next t) (hok : t.errCode = .none) :
    s.lutValid = true ∧ ∀ b ∈ s.srcBytes, codeAt s.lut b ≠ [] := by
  obtain ⟨hr, -⟩ := exec_encode_success h hok
  cases hv : s.lutValid with
  | false =>
    have he : exec .encode s = .next (s.raise ⟨.noLut, 0, 0⟩) := by simp [exec, execEncode, hv]
    obtain rfl := Host.Outcome.next.inj (he.symm.trans h)
    simp at hok
  | true =>
    refine ⟨rfl, fun b hb hnil => ?_⟩
    obtain ⟨k, c, he⟩ := exec_encode_of_uncoded hv hr ⟨b, hb, hnil⟩
    obtain rfl := Host.Outcome.next.inj (he.symm.trans h)
    simp at hok

/-- The bits a packed output shows to a command that reads it (30_encoding.md R130). -/
theorem State.srcBits_of_encoded {s u : State} {bits : List Bool} (hm : (s.encoded bits).sameMemory u)
    (hsrc : u.srcAddr = s.dstAddr) : u.srcBits bits.length = bits := by
  refine List.ext_getElem (u.length_srcBits _) fun j hj hj' => ?_
  have hbit := s.getLsbD_byteAt_storeDst_packBits bits (j := j) (by unfold ceil8; omega)
  rw [List.getD_eq_getElem _ _ hj'] at hbit
  simp only [State.srcBits, List.getElem_map, List.getElem_range, State.srcBit, hsrc]
  rw [hm]
  exact hbit

theorem State.sameTree.trans {s t u : State} (h : s.sameTree t) (h' : t.sameTree u) : s.sameTree u := by
  obtain ⟨hv, hn, hc, hr, hl⟩ := h
  obtain ⟨hv', hn', hc', hr', hl'⟩ := h'
  exact ⟨hv'.trans hv, hn'.trans hn, hc'.trans hc, hr'.trans hr, hl'.trans hl⟩

/-- Bits that are codes of a table decode, with the tree the table was made from, to the coded symbols; there are none
with the empty tree (R212-R214). -/
theorem State.holdsCodes.decodeBits {s u : State} (h : s.holdsCodes) (hu : s.sameTree u) {out : List Symbol}
    (hout : ∀ b ∈ out, codeAt s.lut b ≠ []) {nb : Nat} (hbits : u.srcBits nb = out.flatMap (codeAt s.lut)) :
    u.decodeBits nb = .symbols out := by
  rcases h with ⟨hempty, hcodes⟩ | ⟨T, hT, hcodes⟩
  · obtain rfl : out = [] := List.eq_nil_iff_forall_not_mem.2 fun b hb => hout b hb (hcodes b)
    obtain rfl : nb = 0 := by simpa using congrArg List.length hbits
    obtain ⟨hn, -⟩ := hempty.of_sameTree hu
    exact State.decodeBits_zero_nodes hn 0
  · rw [funext hcodes] at hbits
    exact (hT.of_sameTree hu).decodeBits_codes
      (fun b hb => (T.codeOf_ne_nil_iff b).1 (hcodes b ▸ hout b hb)) hbits

/-! ### The obligations -/

/-- Settles O32: the codes decode to their symbols, and what is left is to compare their number with DST_CAP. -/
theorem decodeFollowsCodes : Obligations.DecodeFollowsCodes := by
  intro s T out hv hT _ hr hl hout hbits
  have hd := hT.decodeBits_codes hout hbits
  exact ⟨fun hcap => exec_decode_symbols (State.decodeReport_of_fits hv hr hl hd hcap),
    fun hcap => exec_decode_failed (State.decodeReport_of_exceeds hv hr hl hd hcap)⟩

/-- Settles O33: as many copies of the leaf's symbol as there are bits are compared with DST_CAP and written. -/
theorem decodeRepeatsLoneLeaf : Obligations.DecodeRepeatsLoneLeaf := by
  intro s sym w hv hn e hr hl
  have hd := State.decodeBits_leaf (by rw [hn]; decide) e s.bitCount.toNat
  refine ⟨fun hcap => ?_, fun hcap => ?_⟩
  · obtain ⟨t, h, hok, hbytes, hframe⟩ :=
      exec_decode_symbols (State.decodeReport_of_fits hv hr hl hd (by simpa using hcap))
    rw [List.length_replicate] at hok hbytes hframe
    refine ⟨t, h, hok, fun k hk => ?_, hframe⟩
    have hbyte := t.getElem?_bytesAt s.dstAddr.toNat hk
    rw [hbytes, List.getElem?_replicate_of_lt hk] at hbyte
    exact (Option.some.inj hbyte).symm
  · simpa [capacityError] using
      exec_decode_failed (State.decodeReport_of_exceeds hv hr hl hd (by simpa using hcap))

/-- Settles O34: without a node no bit has a meaning, and no bit gives no symbol. -/
theorem decodeOfEmptyTree : Obligations.DecodeOfEmptyTree := by
  intro s hv hn hr hl
  have hd := State.decodeBits_zero_nodes hn s.bitCount.toNat
  refine ⟨fun h0 => ?_, fun h0 => ?_⟩
  · rw [if_neg (by simp [h0])] at hd
    obtain ⟨t, h, hok, -, hmem, -⟩ := exec_decode_symbols (State.decodeReport_of_fits hv hr hl hd (Nat.zero_le _))
    exact ⟨t, h, hok, fun a => hmem a (Nat.lt_or_ge a _)⟩
  · rw [if_pos (Nat.pos_of_ne_zero fun h => h0 (BitVec.eq_of_toNat_eq h))] at hd
    exact exec_decode_failed (State.decodeReport_of_failed hv hr hl hd)

/-- Settles O35: the walk ends below the root, in the codeword that began after the finished ones. -/
theorem decodeReportsUnfinishedCodeword : Obligations.DecodeReportsUnfinishedCodeword := by
  intro s T out sym p hv hT h2 hr hl hout hsym hp hp0 hne hbits
  exact exec_decode_failed (State.decodeReport_of_failed hv hr hl
    (hT.decodeBits_unfinished h2 hout hsym hp hp0 hne hbits))

/-- Settles O36: both memories give the same report, and its symbols are all that the output shows. -/
theorem decodeReadsOnlyCountedBits : Obligations.DecodeReadsOnlyCountedBits := by
  intro s t m hbits h
  have hrep := State.decodeReport_congr hbits
  rw [exec_decode] at h
  rw [exec_decode, hrep]
  cases hd : s.decodeReport with
  | notATree => simp [hd, State.deliver] at h
  | failed e =>
    rw [hd] at h
    obtain rfl := Host.Outcome.next.inj h
    obtain ⟨-, -, hc, hs, hi, ho⟩ := s.raise_failedWith e
    obtain ⟨-, -, hc', hs', hi', ho'⟩ := ({ s with dmem := m } : State).raise_failedWith e
    refine ⟨_, rfl, hc'.trans hc.symm, hs'.trans hs.symm, hi'.trans hi.symm, ho'.trans ho.symm, fun _ k hk => ?_⟩
    simp [ho] at hk
  | symbols out =>
    rw [hd] at h
    obtain rfl := Host.Outcome.next.inj h
    refine ⟨_, rfl, rfl, rfl, rfl, rfl, fun _ k hk => ?_⟩
    have hk : k < out.length := Nat.lt_of_lt_of_le hk (Nat.mod_le ..)
    exact (State.byteAt_store_inside { s with dmem := m } hk).trans (State.byteAt_store_inside s hk).symm

/-- Settles O37: ENCODE left the codes of its source, from a table made of the tree that DECODE follows. -/
theorem decodeUndoesEncode : Obligations.DecodeUndoesEncode := by
  intro s t u hM hT hL h hok htree hmem _ hcount haddr hlen hr hcap
  obtain ⟨hv, hcoded⟩ := exec_encode_success_coded h hok
  obtain ⟨hvalid, hcodes⟩ := hL hv
  obtain ⟨hbits, -, -, hout⟩ := encodeBitCountFits s t hM (hT.codesFit hL hv) h hok
  have hsame : s.sameTree u := (exec_sameTree (by decide) (by decide) h).trans htree
  obtain ⟨hvalid', -⟩ := id hsame
  have hl : ceil8 u.bitCount.toNat ≤ u.srcLen.toNat := by
    rw [hcount, ceil8, ← hout]
    exact hlen
  have hd : u.decodeBits u.bitCount.toNat = .symbols s.srcBytes := by
    obtain ⟨-, rfl⟩ := exec_encode_success h hok
    refine hcodes.decodeBits hsame hcoded ?_
    rw [hcount, hbits]
    exact State.srcBits_of_encoded hmem haddr
  have hn : s.srcBytes.length = s.srcLen.toNat := s.length_bytesAt _ _
  obtain ⟨v, hv, hok, hbytes, -⟩ :=
    exec_decode_symbols (State.decodeReport_of_fits (hvalid'.trans hvalid) hr hl hd (hn ▸ hcap))
  rw [hn] at hok hbytes
  refine ⟨v, hv, hok, fun k hk => ?_⟩
  have hbyte := v.getElem?_bytesAt u.dstAddr.toNat hk
  rw [hbytes, State.srcBytes, s.getElem?_bytesAt _ hk] at hbyte
  exact (Option.some.inj hbyte).symm

end Sys2Proof.Machine
end

section
/-! SERIALIZE (43_container.md R230-R234): the artifact it assembles is that of the shape the state holds, and its
length (O40, O41). -/

namespace Sys2Proof.Machine

/-! ### The artifact of the current tree -/

theorem Shape.length_records (sh : Shape) : sh.records.length = sh.size + sh.symbols.length := by
  induction sh with
  | leaf sym => rfl
  | node l r ihl ihr => simp [Shape.records, Shape.size, Shape.symbols, ihl, ihr]; omega

/-- A strict binary tree of L leaves has 2L - 1 nodes. -/
theorem Shape.size_add_one (sh : Shape) : sh.size + 1 = 2 * sh.symbols.length := by
  induction sh with
  | leaf sym => rfl
  | node l r ihl ihr => simp only [Shape.size, Shape.symbols, List.length_append]; omega

/-- The walk over the current tree assembles the artifact of its shape, whatever the bit count and the payload are
(R231, 30_encoding.md R140). -/
theorem State.holdsShape.artifact_eq {s : State} {sh : Option Shape} (h : s.holdsShape sh) :
    ∃ vs, s.treeVisits = some vs ∧
      ∀ b payload, artifact s.nodeCount.toNat vs b payload = artifactOf sh b payload := by
  cases sh with
  | none =>
    obtain ⟨hcount, -⟩ := id h
    exact ⟨[], State.treeVisits_emptyTree h, fun b payload => by rw [hcount]; rfl⟩
  | some sh =>
    obtain ⟨T, hT, rfl⟩ := h
    exact ⟨_, State.treeVisits_holdsTree hT, fun b payload => by
      rw [← hT.nodeCount_eq, artifact_eq_artifactOf]⟩

/-- The number of nodes and the length of the records of the current tree (30_encoding.md R150). -/
theorem State.holdsShape.counts {s : State} {sh : Option Shape} (h : s.holdsShape sh) :
    Shape.sizeOf sh = s.nodeCount.toNat ∧
      (Shape.recordsOf sh).length = s.nodeCount.toNat + s.leafCount.toNat ∧
      s.leafCount.toNat ≤ s.nodeCount.toNat := by
  cases sh with
  | none =>
    obtain ⟨hcount, -, hleaf⟩ := h
    rw [hcount, hleaf]
    exact ⟨rfl, rfl, le_rfl⟩
  | some sh =>
    obtain ⟨T, hT, rfl⟩ := h
    have hcount := hT.nodeCount_eq
    have hsize := T.shape.size_add_one
    obtain ⟨-, -, -, -, hleaf⟩ := hT
    rw [← T.shape_size] at hcount
    rw [← T.shape_symbols] at hleaf
    rw [Shape.sizeOf, Shape.recordsOf, Shape.length_records]
    omega

/-- The current tree has a shape, be it that of the empty tree (10_state.md R56). -/
theorem State.TreeInv.holdsShape {s : State} (h : s.TreeInv) (hv : s.treeValid = true) :
    ∃ sh, s.holdsShape sh := by
  obtain ⟨hvalid, -⟩ := h
  rcases hvalid hv with hempty | ⟨T, hT⟩
  · exact ⟨none, hempty⟩
  · exact ⟨some T.shape, T, hT, rfl⟩

theorem State.holdsShape.distinct {s : State} {sh : Option Shape} (h : s.holdsShape sh) : Shape.distinct sh := by
  cases sh with
  | none => trivial
  | some sh =>
    obtain ⟨T, ⟨-, -, -, hnd, -⟩, rfl⟩ := h
    rwa [Shape.distinct, T.shape_symbols]

theorem length_artifactOf (sh : Option Shape) (b : Nat) (payload : List Byte) :
    (artifactOf sh b payload).length =
      1 + varintLen (Shape.sizeOf sh) + (Shape.recordsOf sh).length + varintLen b + payload.length := by
  simp [artifactOf, Nat.add_comm, Nat.add_left_comm, Nat.add_assoc]

/-! ### The outcomes of SERIALIZE -/

/-- The artifact of a shape, BITCOUNT and the source bytes that BITCOUNT bits take (R231). -/
def State.artifactOfSource (s : State) (sh : Option Shape) : List Byte :=
  artifactOf sh s.bitCount.toNat (s.bytesAt s.srcAddr.toNat (ceil8 s.bitCount.toNat))

/-- The state SERIALIZE leaves when the artifact fits the destination (R232). -/
def State.serialized (s : State) (sh : Option Shape) : State :=
  (s.storeDst (s.artifactOfSource sh)).finish (s.artifactOfSource sh).length

section
variable {s : State} {sh : Option Shape} (hv : s.treeValid = true) (hsh : s.holdsShape sh) (hr : s.rangesFit)
  (hl : ceil8 s.bitCount.toNat ≤ s.srcLen.toNat)
include hv hsh hr hl

theorem exec_serialize_of_fits (hcap : (s.artifactOfSource sh).length ≤ s.dstCap.toNat) :
    exec .serialize s = .next (s.serialized sh) := by
  obtain ⟨vs, hvs, hart⟩ := hsh.artifact_eq
  unfold State.artifactOfSource at hcap
  simp [exec, execSerialize, hv, (State.rangeError_eq_none s).2 hr, State.bitBytes, Nat.not_lt.2 hl, hvs, hart,
    Nat.not_lt.2 hcap, State.serialized, State.artifactOfSource]

theorem exec_serialize_of_exceeds (hcap : s.dstCap.toNat < (s.artifactOfSource sh).length) :
    exec .serialize s = .next (s.raise (capacityError (s.artifactOfSource sh).length)) := by
  obtain ⟨vs, hvs, hart⟩ := hsh.artifact_eq
  unfold State.artifactOfSource at hcap
  simp [exec, execSerialize, hv, (State.rangeError_eq_none s).2 hr, State.bitBytes, Nat.not_lt.2 hl, hvs, hart,
    hcap, State.artifactOfSource]

end

/-- SERIALIZE reports no error only when the artifact of the current tree fits the destination (R232-R234). -/
theorem exec_serialize_success {s t : State} {sh : Option Shape} (hsh : s.holdsShape sh)
    (h : exec .serialize s = .next t) (hok : t.errCode = .none) :
    (s.artifactOfSource sh).length ≤ s.dstCap.toNat ∧ t = s.serialized sh := by
  have hfail : ∀ {e : Error}, exec .serialize s = .next (s.raise e) → e.code = .none := by
    intro e he
    obtain rfl := Host.Outcome.next.inj (h.symm.trans he)
    rwa [State.raise_errCode] at hok
  cases hv : s.treeValid with
  | false => cases hfail (e := ⟨.noTree, 0, 0⟩) (by simp [exec, execSerialize, hv])
  | true =>
    cases hre : s.rangeError with
    | some e =>
      have hnone := hfail (e := e) (by simp [exec, execSerialize, hv, hre])
      rcases State.rangeError_code hre with hc | hc <;> rw [hc] at hnone <;> cases hnone
    | none =>
      have hr := (State.rangeError_eq_none s).1 hre
      rcases Nat.lt_or_ge s.srcLen.toNat s.bitBytes with hl | hl
      · cases hfail (e := lengthError s.bitBytes) (by simp [exec, execSerialize, hv, hre, hl])
      · rcases Nat.lt_or_ge s.dstCap.toNat (s.artifactOfSource sh).length with hcap | hcap
        · cases hfail (exec_serialize_of_exceeds hv hsh hr hl hcap)
        · exact ⟨hcap, Host.Outcome.next.inj (h.symm.trans (exec_serialize_of_fits hv hsh hr hl hcap))⟩

/-! ### The obligations -/

/-- Settles O40: the walk assembles the artifact of the shape held, and SERIALIZE stores it at DST_ADDR. -/
theorem serializeWritesArtifact : Obligations.SerializeWritesArtifact := by
  intro s sh hv hsh hr hl hcap
  have h := exec_serialize_of_fits hv hsh hr hl hcap
  exact ⟨_, h, ⟨rfl, rfl, rfl, rfl, rfl, rfl⟩, s.bytesAt_store _ _, fun _ ha => s.byteAt_store_outside ha,
    exec_sameInputs h, exec_sameTree (by decide) (by decide) h, ⟨rfl, rfl⟩, rfl⟩

/-- Settles O41: an artifact has one byte per Internal record and two per Leaf record, whatever the tree is. -/
theorem serializeReportsArtifactLength : Obligations.SerializeReportsArtifactLength := by
  intro s n hT hv hr hl hn
  obtain ⟨sh, hsh⟩ := hT.holdsShape hv
  obtain ⟨hsize, hrecords, hle⟩ := hsh.counts
  have hlen : (s.artifactOfSource sh).length = n := by
    rw [State.artifactOfSource, length_artifactOf, hsize, hrecords, State.length_bytesAt, hn]
    omega
  rw [← hlen]
  exact ⟨fun hcap => ⟨_, exec_serialize_of_fits hv hsh hr hl hcap, rfl, rfl, rfl, rfl, rfl, rfl⟩,
    fun hcap => ⟨_, exec_serialize_of_exceeds hv hsh hr hl hcap, s.raise_failedWith _⟩⟩

end Sys2Proof.Machine
end

section
/-! DESERIALIZE of the fields of an artifact one after another (43_container.md R240-R252): the record loop over the
first records of a shape, the error of each field, and what an artifact loads (O42, O44 to O47). -/

namespace Sys2Proof.Machine

/-! ### Reading one record -/

theorem getElem?_of_drop_eq {α : Type} {xs ys : List α} {i : Nat} (h : xs.drop i = ys) (j : Nat) :
    xs[i + j]? = ys[j]? := by
  rw [← h, List.getElem?_drop]

/-- Linking a record closes no subtree and reads no symbol (R247). -/
theorem Parse.link_need_seen (p : Parse) : p.link.need = p.need ∧ p.link.seen = p.seen := by
  unfold Parse.link
  split
  · exact ⟨rfl, rfl⟩
  · split
    · exact ⟨rfl, rfl⟩
    · split <;> exact ⟨rfl, rfl⟩

/-- The open subtrees after some records, with `need` of them before: a Leaf record, the one of two bytes, closes one,
and an Internal record opens one (R244). -/
def openAfter (need : Nat) (rs : List (List Byte)) : Nat :=
  rs.foldl (fun need r => if r.length = 2 then need - 1 else need + 1) need

theorem openAfter_append (need : Nat) (rs rs' : List (List Byte)) :
    openAfter need (rs ++ rs') = openAfter (openAfter need rs) rs' := List.foldl_append

/-- The record loop reads the records `rs` from `p` on and stands at `q`, with the symbols of their leaves seen
(R244-R246). -/
structure Parse.After (bytes : List Byte) (p : Parse) (rs : List (List Byte)) (q : Parse) : Prop where
  loop (left : Nat) : readRecords bytes (rs.length + left) p = readRecords bytes left q
  pos_eq : q.pos = p.pos + rs.flatten.length
  need_eq : q.need = openAfter p.need rs
  mem_seen (sym : Symbol) : sym ∈ q.seen ↔ [0x01#8, sym] ∈ rs ∨ sym ∈ p.seen

theorem Parse.After.refl (bytes : List Byte) (p : Parse) : Parse.After bytes p [] p :=
  ⟨fun left => by simp, rfl, rfl, by simp⟩

theorem Parse.After.trans {bytes : List Byte} {p q q' : Parse} {rs rs' : List (List Byte)}
    (h : Parse.After bytes p rs q) (h' : Parse.After bytes q rs' q') : Parse.After bytes p (rs ++ rs') q' where
  loop left := by rw [List.length_append, Nat.add_assoc, h.loop, h'.loop]
  pos_eq := by rw [h'.pos_eq, h.pos_eq, List.flatten_append, List.length_append, Nat.add_assoc]
  need_eq := by rw [h'.need_eq, h.need_eq, openAfter_append]
  mem_seen sym := by rw [h'.mem_seen, h.mem_seen, List.mem_append, ← or_assoc, or_comm (a := _ ∈ rs')]

theorem Parse.After.of_readRecord {bytes : List Byte} {p q : Parse} {r : List Byte}
    (h : p.readRecord bytes = .ok q) (hpos : q.pos = p.pos + r.length) (hneed : q.need = openAfter p.need [r])
    (hseen : ∀ sym, sym ∈ q.seen ↔ [0x01#8, sym] = r ∨ sym ∈ p.seen) : Parse.After bytes p [r] q where
  loop left := by rw [List.length_singleton, Nat.add_comm, readRecords, h]
  pos_eq := by rw [hpos, List.flatten_singleton]
  need_eq := hneed
  mem_seen sym := by rw [hseen, List.mem_singleton]

/-- After records that stand in the bytes comes what follows them. -/
theorem Parse.After.drop_eq {bytes more : List Byte} {p q : Parse} {rs : List (List Byte)}
    (h : Parse.After bytes p rs q) (hbytes : bytes.drop p.pos = rs.flatten ++ more) : bytes.drop q.pos = more := by
  rw [h.pos_eq, ← List.drop_drop, hbytes, List.drop_left]

/-- With a subtree open an Internal record is read, and one more subtree is open (R244). -/
theorem Parse.readRecord_internal {bytes : List Byte} {p : Parse} (hneed : p.need ≠ 0)
    (htag : bytes[p.pos]? = some 0x00#8) :
    ∃ q, p.readRecord bytes = .ok q ∧ q.pos = p.pos + 1 ∧ q.need = p.need + 1 ∧ q.seen = p.seen := by
  obtain ⟨hpos, -, -⟩ := p.link_records
  obtain ⟨hopen, hseen⟩ := p.link_need_seen
  refine ⟨_, by rw [Parse.readRecord, if_neg hneed, htag]; rfl, ?_⟩
  exact ⟨congrArg (· + 1) hpos, congrArg (· + 1) hopen, hseen⟩

/-- With a subtree open a Leaf record of a new symbol is read, and one subtree less is open (R244, R246). -/
theorem Parse.readRecord_leaf {bytes : List Byte} {p : Parse} {sym : Symbol} (hneed : p.need ≠ 0)
    (htag : bytes[p.pos]? = some 0x01#8) (hsym : bytes[p.pos + 1]? = some sym) (hnew : sym ∉ p.seen) :
    ∃ q, p.readRecord bytes = .ok q ∧ q.pos = p.pos + 2 ∧ q.need = p.need - 1 ∧ q.seen = sym :: p.seen := by
  obtain ⟨hpos, -, -⟩ := p.link_records
  obtain ⟨hopen, hseen⟩ := p.link_need_seen
  have hfresh : ¬ p.seen.contains sym = true := by simpa using hnew
  refine ⟨_, by rw [Parse.readRecord, if_neg hneed, htag]; simp only [hsym, if_neg hfresh]; rfl, ?_⟩
  exact ⟨congrArg (· + 2) hpos, congrArg (· - 1) hopen, congrArg (sym :: ·) hseen⟩

/-- With a subtree open, the record of a node is read, unless it is a Leaf record of a symbol seen before. -/
theorem Parse.after_record {bytes more : List Byte} {p : Parse} (n : Node) (hneed : p.need ≠ 0)
    (hbytes : bytes.drop p.pos = record n ++ more) (hnew : ∀ sym, [0x01#8, sym] = record n → sym ∉ p.seen) :
    ∃ q, Parse.After bytes p [record n] q := by
  cases n with
  | internal w l r =>
    obtain ⟨q, hq, hpos, hopen, hseen⟩ := Parse.readRecord_internal hneed (getElem?_of_drop_eq hbytes 0)
    exact ⟨q, .of_readRecord hq hpos hopen (by simp [hseen])⟩
  | leaf sym w =>
    obtain ⟨q, hq, hpos, hopen, hseen⟩ := Parse.readRecord_leaf hneed (getElem?_of_drop_eq hbytes 0)
      (getElem?_of_drop_eq hbytes 1) (hnew sym rfl)
    exact ⟨q, .of_readRecord hq hpos hopen (by simp [hseen])⟩

/-! ### Records that are refused -/

section
variable {bytes : List Byte} {p : Parse}

theorem Parse.readRecord_of_closed (h : p.need = 0) :
    p.readRecord bytes = .error (artifactError .nodeMismatch p.pos) := by
  rw [Parse.readRecord, if_pos h]

variable (h : p.need ≠ 0)
include h

theorem Parse.readRecord_of_missing_tag (hbytes : bytes.drop p.pos = []) :
    p.readRecord bytes = .error (artifactError .truncated p.pos) := by
  have htag : bytes[p.pos]? = none := getElem?_of_drop_eq hbytes 0
  rw [Parse.readRecord, if_neg h, htag]

theorem Parse.readRecord_of_bad_tag {tag : Byte} {after : List Byte} (hbytes : bytes.drop p.pos = tag :: after)
    (h0 : tag ≠ 0x00#8) (h1 : tag ≠ 0x01#8) : p.readRecord bytes = .error (artifactError .badTag p.pos) := by
  have htag : bytes[p.pos]? = some tag := getElem?_of_drop_eq hbytes 0
  simp [Parse.readRecord, h, htag, h0, h1]

theorem Parse.readRecord_of_missing_symbol (hbytes : bytes.drop p.pos = [0x01#8]) :
    p.readRecord bytes = .error (artifactError .truncated (p.pos + 1)) := by
  have htag : bytes[p.pos]? = some 0x01#8 := getElem?_of_drop_eq hbytes 0
  have hsym : bytes[p.pos + 1]? = none := getElem?_of_drop_eq hbytes 1
  simp [Parse.readRecord, h, htag, hsym]

theorem Parse.readRecord_of_seen {sym : Symbol} {after : List Byte}
    (hbytes : bytes.drop p.pos = 0x01#8 :: sym :: after) (hseen : sym ∈ p.seen) :
    p.readRecord bytes = .error (artifactError .dupSymbol (p.pos + 1)) := by
  have htag : bytes[p.pos]? = some 0x01#8 := getElem?_of_drop_eq hbytes 0
  have hsym : bytes[p.pos + 1]? = some sym := getElem?_of_drop_eq hbytes 1
  simp [Parse.readRecord, h, htag, hsym, hseen]

end

/-! ### Reading the first records of a shape -/

/-- Records are read while a subtree is open before each, when their symbols differ and none was seen before. -/
theorem Parse.after_records {bytes more : List Byte} {rs : List (List Byte)} (hrs : ∀ r ∈ rs, ∃ n, r = record n)
    {p : Parse} (hopen : ∀ j, j < rs.length → openAfter p.need (rs.take j) ≠ 0)
    (hnd : (rs.filter fun r => r.length == 2).Nodup) (hnew : ∀ sym, [0x01#8, sym] ∈ rs → sym ∉ p.seen)
    (hbytes : bytes.drop p.pos = rs.flatten ++ more) : ∃ q, Parse.After bytes p rs q := by
  induction rs generalizing p with
  | nil => exact ⟨p, .refl bytes p⟩
  | cons r rs ih =>
    obtain ⟨⟨n, rfl⟩, hrs'⟩ := List.forall_mem_cons.1 hrs
    rw [List.flatten_cons, List.append_assoc] at hbytes
    obtain ⟨q, hq⟩ := Parse.after_record n (hopen 0 (Nat.succ_pos _)) hbytes
      fun sym hsym => hnew sym (by rw [hsym]; exact List.mem_cons_self)
    obtain ⟨q', hq'⟩ := ih (p := q) hrs'
      (fun j hj => by
        rw [hq.need_eq, ← openAfter_append]
        exact hopen (j + 1) (Nat.succ_lt_succ hj))
      (hnd.sublist ((List.sublist_cons_self _ _).filter _))
      (fun sym hsym => by
        rw [hq.mem_seen, List.mem_singleton]
        rintro (hr | hp)
        · rw [← hr, List.filter_cons_of_pos rfl] at hnd
          exact (List.nodup_cons.1 hnd).1 (List.mem_filter.2 ⟨hsym, rfl⟩)
        · exact hnew sym (List.mem_cons_of_mem _ hsym) hp)
      (hq.drop_eq (by simpa using hbytes))
    exact ⟨q', hq.trans hq'⟩

theorem Shape.exists_record_of_mem {sh : Shape} {r : List Byte} (h : r ∈ sh.recordList) : ∃ n, r = record n := by
  induction sh with
  | leaf sym => exact ⟨.leaf sym 0, by simpa [Shape.recordList] using h⟩
  | node l r ihl ihr =>
    rw [Shape.recordList, List.mem_cons, List.mem_append] at h
    rcases h with rfl | h | h
    · exact ⟨.internal 0 0 0, rfl⟩
    · exact ihl h
    · exact ihr h

/-- The records of a whole shape close one subtree (R244). -/
theorem Shape.openAfter_recordList (sh : Shape) (m : Nat) : openAfter (m + 1) sh.recordList = m := by
  induction sh generalizing m with
  | leaf sym => rfl
  | node l r ihl ihr =>
    have hroot : openAfter (m + 1) [[0x00#8]] = m + 1 + 1 := rfl
    rw [Shape.recordList, ← List.singleton_append, openAfter_append, openAfter_append, hroot, ihl, ihr]

/-- Before the last of its records the subtree of a shape stays open (R244). -/
theorem Shape.lt_openAfter_take (sh : Shape) {k : Nat} (m : Nat) (hk : k < sh.size) :
    m < openAfter (m + 1) (sh.recordList.take k) := by
  induction sh generalizing k m with
  | leaf sym =>
    obtain rfl : k = 0 := Nat.lt_one_iff.1 hk
    exact Nat.lt_succ_self m
  | node l r ihl ihr =>
    cases k with
    | zero => exact Nat.lt_succ_self m
    | succ k =>
      have hroot : openAfter (m + 1) [[0x00#8]] = m + 1 + 1 := rfl
      rw [Shape.recordList, List.take_succ_cons, ← List.singleton_append, openAfter_append, hroot,
        List.take_append, l.length_recordList]
      rw [Shape.size] at hk
      rcases Nat.lt_or_ge k l.size with hl | hl
      · rw [Nat.sub_eq_zero_of_le hl.le, List.take_zero, List.append_nil]
        exact Nat.lt_of_succ_lt (ihl (m + 1) hl)
      · rw [List.take_of_length_le (by rwa [l.length_recordList]), openAfter_append, l.openAfter_recordList]
        exact ihr m (by omega)

theorem Shape.take_recordList_size (sh : Shape) : sh.recordList.take sh.size = sh.recordList :=
  List.take_of_length_le sh.length_recordList.le

theorem Shape.length_take_recordList (sh : Shape) {k : Nat} (hk : k ≤ sh.size) :
    (sh.recordList.take k).length = k := by
  rw [List.length_take, sh.length_recordList, min_eq_left hk]

/-- The first `k` records of a shape are read from the start of the record loop; the tree is complete after all of
them and not before. -/
theorem Shape.after_start (sh : Shape) {k : Nat} (hk : k ≤ sh.size) (hd : sh.distinctUpTo k) {bytes more : List Byte}
    {pos count : Nat} (hcount : 0 < count) (hbytes : bytes.drop pos = sh.prefixBytes k ++ more) :
    ∃ q, Parse.After bytes (Parse.start pos count) (sh.recordList.take k) q ∧ (q.need = 0 ↔ k = sh.size) := by
  have hstart : (Parse.start pos count).need = 0 + 1 := if_pos hcount
  have hlen := sh.length_take_recordList hk
  obtain ⟨q, hq⟩ := Parse.after_records (p := Parse.start pos count)
    (fun r hr => Shape.exists_record_of_mem (List.mem_of_mem_take hr))
    (fun j hj => by
      rw [hstart, List.take_take, min_eq_left (by omega)]
      exact (sh.lt_openAfter_take 0 (by omega)).ne') hd (fun _ _ => List.not_mem_nil) hbytes
  refine ⟨q, hq, ?_⟩
  have hneed := hq.need_eq
  rw [hstart] at hneed
  rcases hk.lt_or_eq with hlt | rfl
  · have := sh.lt_openAfter_take 0 hlt
    omega
  · rw [hneed, sh.take_recordList_size, sh.openAfter_recordList]
    simp

theorem Shape.size_pos (sh : Shape) : 0 < sh.size := by
  have := sh.size_add_one
  omega

theorem Shape.prefixBytes_size (sh : Shape) : sh.prefixBytes sh.size = sh.records := by
  rw [Shape.prefixBytes, sh.take_recordList_size, sh.flatten_recordList]

/-- The Leaf records of a shape are those of its symbols. -/
theorem Shape.filter_recordList (sh : Shape) :
    (sh.recordList.filter fun r => r.length == 2) = sh.symbols.map fun sym => [0x01#8, sym] := by
  induction sh with
  | leaf sym => rfl
  | node l r ihl ihr => simp [Shape.recordList, Shape.symbols, ihl, ihr]

theorem Shape.distinctUpTo_size {sh : Shape} (h : sh.symbols.Nodup) : sh.distinctUpTo sh.size := by
  rw [Shape.distinctUpTo, sh.take_recordList_size, sh.filter_recordList]
  exact h.map fun a b hab => by simpa using hab

/-- Distinct symbols are at most 256, so the nodes are at most MAX_NODES = 511 (00_scope.md R6). -/
theorem Shape.sizeOf_le {sh : Option Shape} (h : Shape.distinct sh) : Shape.sizeOf sh ≤ 511 := by
  cases sh with
  | none => exact Nat.zero_le _
  | some sh =>
    have hle : sh.symbols.length ≤ 256 :=
      (List.Nodup.length_le_card h).trans_eq (FinEnum.card_eq_fintypeCard.symm.trans (FinEnum.card_bitVec 8))
    have hsize := sh.size_add_one
    rw [Shape.sizeOf]
    omega

/-! ### The tree of an artifact -/

/-- The end of the record loop: a subtree still open is an error, just after the last record (R244). -/
def Parse.close (p : Parse) : Except Error Parse :=
  if p.need ≠ 0 then .error (artifactError .nodeMismatch p.pos) else .ok p

theorem Parse.close_of_open {p : Parse} (h : p.need ≠ 0) : p.close = .error (artifactError .nodeMismatch p.pos) :=
  if_pos h

theorem Parse.close_of_closed {p : Parse} (h : p.need = 0) : p.close = .ok p :=
  if_neg (not_not_intro h)

section
variable {bytes rest : List Byte} {n : Nat} (hn : n < 2 ^ 32) (hbytes : bytes = [0x01#8] ++ varint n ++ rest)

include hbytes in
theorem drop_nodeCount : bytes.drop (1 + varintLen n) = rest := by
  rw [hbytes, Nat.add_comm, List.append_assoc, List.singleton_append, List.drop_succ_cons, ← length_varint,
    List.drop_left]

include hn hbytes

theorem readVarint_nodeCount : readVarint bytes 1 = .ok (n, 1 + varintLen n) :=
  readVarint_of_drop_eq hn (after := rest) (by rw [hbytes]; rfl)

/-- After VERSION and NODECOUNT come the check of the count, the record loop and its end (R240). -/
theorem parseTree_eq : parseTree bytes =
    if 511 < n then .error (artifactError .badNodeCount 1)
    else (readRecords bytes n (Parse.start (1 + varintLen n) n)).bind Parse.close := by
  have hcount := readVarint_nodeCount hn hbytes
  rw [List.append_assoc, List.singleton_append] at hbytes
  subst hbytes
  simp only [parseTree, formatVersion, ne_eq, not_true_eq_false, if_false, hcount]
  by_cases h : 511 < n
  · rw [if_pos h, if_pos h]
  · rw [if_neg h, if_neg h]
    cases readRecords (0x01#8 :: (varint n ++ rest)) n (Parse.start (1 + varintLen n) n) <;> rfl

/-- A count of more than MAX_NODES is refused before any record is read (R243). -/
theorem parseTree_of_exceeds (h : 511 < n) : parseTree bytes = .error (artifactError .badNodeCount 1) := by
  rw [parseTree_eq hn hbytes, if_pos h]

variable (hle : n ≤ 511)
include hle

theorem parseTree_of_error {e : Error} (h : readRecords bytes n (Parse.start (1 + varintLen n) n) = .error e) :
    parseTree bytes = .error e := by
  rw [parseTree_eq hn hbytes, if_neg (Nat.not_lt.2 hle), h]
  rfl

theorem parseTree_of_read {q : Parse} (h : readRecords bytes n (Parse.start (1 + varintLen n) n) = .ok q) :
    parseTree bytes = q.close := by
  rw [parseTree_eq hn hbytes, if_neg (Nat.not_lt.2 hle), h]
  rfl

end

theorem readRecords_of_error {bytes : List Byte} {p : Parse} {e : Error} {left : Nat} (hleft : 0 < left)
    (h : p.readRecord bytes = .error e) : readRecords bytes left p = .error e := by
  cases left with
  | zero => cases hleft
  | succ left => rw [readRecords, h]

/-- Where record `k` is due, after the first `k` records of a shape: the record loop stands there, and the error of
record `k` is that of the tree. -/
theorem exists_parse_before_record {bytes more : List Byte} {n k : Nat} {sh : Shape} (hle : n ≤ 511) (hkn : k < n)
    (hk : k ≤ sh.size) (hd : sh.distinctUpTo k)
    (hbytes : bytes = [0x01#8] ++ varint n ++ (sh.prefixBytes k ++ more)) :
    ∃ q : Parse, q.pos = 1 + varintLen n + (sh.prefixBytes k).length ∧ bytes.drop q.pos = more ∧
      (q.need = 0 ↔ k = sh.size) ∧ (∀ sym, [0x01#8, sym] ∈ sh.recordList.take k → sym ∈ q.seen) ∧
      ∀ e, q.readRecord bytes = .error e → parseTree bytes = .error e := by
  have hdrop := drop_nodeCount hbytes
  obtain ⟨q, hq, hneed⟩ := sh.after_start hk hd (Nat.zero_lt_of_lt hkn) hdrop
  refine ⟨q, hq.pos_eq, hq.drop_eq hdrop, hneed, fun sym h => (hq.mem_seen sym).2 (.inl h), fun e he => ?_⟩
  have hloop := hq.loop (n - k)
  rw [sh.length_take_recordList hk, Nat.add_sub_of_le hkn.le, readRecords_of_error (Nat.sub_pos_of_lt hkn) he] at hloop
  exact parseTree_of_error (by omega) hbytes hle hloop

/-! ### The weights of what is read -/

theorem Slot.map_weight_fill (sl : Slot) (c : NodeIdx) (ns : List Node) :
    (sl.fill c ns).map Node.weight = ns.map Node.weight := by
  have hmodify : ∀ (f : Node → Node) (j : Nat), (∀ n, (f n).weight = n.weight) →
      (ns.modify j f).map Node.weight = ns.map Node.weight := by
    intro f j hf
    refine List.ext_getElem? fun i => ?_
    rw [List.getElem?_map, List.getElem?_map, List.getElem?_modify]
    cases ns[i]? with
    | none => simp
    | some n => by_cases hij : j = i <;> simp [hij, hf]
  cases sl with
  | root => rfl
  | left j => exact hmodify _ _ fun n => by cases n <;> rfl
  | right j => exact hmodify _ _ fun n => by cases n <;> rfl

/-- Every node read has weight 0 (R247). -/
theorem Parse.Ok.readRecords_weight {bytes : List Byte} {left : Nat} {p q : Parse} (h : p.Ok)
    (hq : Machine.readRecords bytes left p = .ok q) (hp : ∀ w ∈ p.nodes.map Node.weight, w = 0#40) :
    ∀ w ∈ q.nodes.map Node.weight, w = 0#40 := by
  induction left generalizing p with
  | zero =>
    cases hq
    exact hp
  | succ left ih =>
    rw [Machine.readRecords] at hq
    split at hq
    · cases hq
    · next p' hp' =>
      obtain ⟨sl, rest, node, -, hok, -, hnodes, hcase⟩ := h.readRecord_cases hp'
      refine ih hok hq ?_
      have hnode : node.weight = 0#40 := by
        rcases hcase with ⟨rfl, -⟩ | ⟨sym, rfl, -⟩ <;> rfl
      rw [hnodes, List.map_append, Slot.map_weight_fill, List.forall_mem_append]
      exact ⟨hp, by simpa using hnode⟩

/-- VERSION, NODECOUNT and the records of a tree of distinct symbols are read, whatever comes after them. -/
theorem parseTree_artifact {bytes rest : List Byte} {sh : Option Shape} (hd : Shape.distinct sh)
    (hbytes : bytes = [0x01#8] ++ varint (Shape.sizeOf sh) ++ Shape.recordsOf sh ++ rest) :
    ∃ p, parseTree bytes = .ok p ∧ bytes.drop p.pos = rest ∧ p.pos + rest.length = bytes.length ∧
      ∀ w ∈ p.nodes.map Node.weight, w = 0#40 := by
  have hle := Shape.sizeOf_le hd
  rw [List.append_assoc] at hbytes
  have hdrop := drop_nodeCount hbytes
  have hlen : bytes.length = 1 + varintLen (Shape.sizeOf sh) + (Shape.recordsOf sh).length + rest.length := by
    rw [hbytes]
    simp only [List.length_append, length_varint, List.length_singleton]
    omega
  cases sh with
  | none => exact ⟨_, parseTree_of_read (by omega) hbytes hle rfl, hdrop, hlen.symm, by simp [Parse.start]⟩
  | some sh =>
    rw [Shape.recordsOf, ← sh.prefixBytes_size] at hdrop
    obtain ⟨q, hq, hneed⟩ := sh.after_start le_rfl (Shape.distinctUpTo_size hd) sh.size_pos hdrop
    have hread := hq.loop 0
    rw [sh.take_recordList_size, sh.length_recordList] at hread
    have hparse := (parseTree_of_read (by omega) hbytes hle hread).trans (Parse.close_of_closed (hneed.2 rfl))
    refine ⟨q, hparse, hq.drop_eq hdrop, ?_,
      (Parse.ok_start sh.size_pos).readRecords_weight hread (by simp [Parse.start])⟩
    have hrecords : (sh.recordList.take sh.size).flatten = sh.records := sh.prefixBytes_size
    rw [hq.pos_eq, hrecords]
    exact hlen.symm

/-! ### Artifacts of different trees differ -/

/-- The records of a shape say where they end, so no shape has those of another (30_encoding.md R147). -/
theorem Shape.records_append_inj {sh sh' : Shape} {xs ys : List Byte} (h : sh.records ++ xs = sh'.records ++ ys) :
    sh = sh' ∧ xs = ys := by
  induction sh generalizing sh' xs ys with
  | leaf sym => cases sh' <;> simp_all [Shape.records]
  | node l r ihl ihr =>
    cases sh' with
    | leaf sym => simp [Shape.records] at h
    | node l' r' =>
      simp only [Shape.records, List.cons_append, List.append_assoc, List.cons.injEq, true_and] at h
      obtain ⟨rfl, hr⟩ := ihl h
      obtain ⟨rfl, hxs⟩ := ihr hr
      exact ⟨rfl, hxs⟩

theorem readVarint_artifactOf {sh : Option Shape} (hd : Shape.distinct sh) (b : Nat) (payload : List Byte) :
    readVarint (artifactOf sh b payload) 1 = .ok (Shape.sizeOf sh, 1 + varintLen (Shape.sizeOf sh)) := by
  have hle := Shape.sizeOf_le hd
  exact readVarint_nodeCount (rest := Shape.recordsOf sh ++ varint b ++ payload) (by omega)
    (by simp [artifactOf])

/-- An artifact is that of one tree (30_encoding.md R151). -/
theorem artifactOf_tree_inj {sh sh' : Option Shape} {b b' : Nat} {payload payload' : List Byte}
    (hd : Shape.distinct sh) (hd' : Shape.distinct sh') (h : artifactOf sh b payload = artifactOf sh' b' payload') :
    sh = sh' := by
  have hcount := (readVarint_artifactOf hd b payload).symm.trans (h ▸ readVarint_artifactOf hd' b' payload')
  have hsize : Shape.sizeOf sh = Shape.sizeOf sh' := (Prod.mk.inj (Except.ok.inj hcount)).1
  simp only [artifactOf, List.append_assoc] at h
  rw [hsize, List.append_cancel_left_eq, List.append_cancel_left_eq] at h
  cases sh with
  | none =>
    cases sh' with
    | none => rfl
    | some sh' => exact absurd hsize sh'.size_pos.ne
  | some sh =>
    cases sh' with
    | none => exact absurd hsize sh.size_pos.ne'
    | some sh' => rw [(Shape.records_append_inj h).1]

/-- What a table holds from an index on is one tree. -/
theorem Tree.eq_of_heldBy {t : Vector Node 511} {T T' : Tree} (h : T.heldBy t) (h' : T'.heldBy t)
    (hidx : T.idx = T'.idx) : T = T' := by
  induction T generalizing T' with
  | leaf i sym w => cases T' <;> simp_all [Tree.heldBy]
  | node i w l r ihl ihr =>
    cases T' with
    | leaf i' sym w' => simp_all [Tree.heldBy]
    | node i' w' l' r' =>
      obtain ⟨hi, hl, hr⟩ := h
      obtain ⟨hi', hl', hr'⟩ := h'
      obtain rfl : i = i' := hidx
      obtain ⟨rfl, hli, hri⟩ : w = w' ∧ l.idx = l'.idx ∧ r.idx = r'.idx := by simpa [hi'] using hi.symm
      rw [ihl hl hl' hli, ihr hr hr' hri]

end Sys2Proof.Machine
end

section
/-! The outcomes of DESERIALIZE (43_container.md R240-R253): each refusal is the error of the field at fault, and an
accepted artifact is loaded (O42, O44 to O47). -/

namespace Sys2Proof.Machine

/-! ### The outcomes of DESERIALIZE -/

/-- The state DESERIALIZE leaves when it loads what an artifact holds (R252). -/
def State.loaded (s : State) (a : Loaded) : State :=
  { s.storeDst (s.bytesAt (s.srcAddr.toNat + a.payloadAt) (ceil8 a.bitCount)) with
    node := writeNodes s.node a.nodes
    nodeCount := BitVec.ofNat 9 a.nodes.length
    root := 0
    leafCount := BitVec.ofNat 9 a.leaves
    bitCount := BitVec.ofNat 32 a.bitCount
    treeValid := true
    lutValid := false }.finish (ceil8 a.bitCount)

section
variable {s : State} (hr : s.rangesFit)
include hr

/-- An artifact that is refused is reported as its error (R240, 60_exceptions.md R264). -/
theorem exec_deserialize_of_error {e : Error} (h : parseArtifact s.srcBytes = .error e) :
    ∃ t : State, exec .deserialize s = .next t ∧ t.failedWith e :=
  ⟨_, by simp only [exec, execDeserialize, (State.rangeError_eq_none s).2 hr, h], s.loseTree.raise_failedWith e⟩

theorem exec_deserialize_of_exceeds {a : Loaded} (h : parseArtifact s.srcBytes = .ok a)
    (hcap : s.dstCap.toNat < ceil8 a.bitCount) :
    exec .deserialize s = .next (s.loseTree.raise (capacityError (ceil8 a.bitCount))) := by
  simp [exec, execDeserialize, (State.rangeError_eq_none s).2 hr, h, hcap]

theorem exec_deserialize_of_fits {a : Loaded} (h : parseArtifact s.srcBytes = .ok a)
    (hcap : ceil8 a.bitCount ≤ s.dstCap.toNat) : exec .deserialize s = .next (s.loaded a) := by
  simp [exec, execDeserialize, (State.rangeError_eq_none s).2 hr, h, Nat.not_lt.2 hcap, State.loaded]

end

/-! ### The fields after the tree -/

theorem parseArtifact_of_tree_error {bytes : List Byte} {e : Error} (h : parseTree bytes = .error e) :
    parseArtifact bytes = .error e := by
  rw [parseArtifact, h]

section
variable {bytes : List Byte} {p : Parse} (hp : parseTree bytes = .ok p)
include hp

theorem parseArtifact_of_bitCount_error {e : Error} (h : readVarint bytes p.pos = .error e) :
    parseArtifact bytes = .error e := by
  simp only [parseArtifact, hp, h]

variable {b pos : Nat} (hb : readVarint bytes p.pos = .ok (b, pos))
include hb

theorem parseArtifact_of_short (h : bytes.length - pos < ceil8 b) :
    parseArtifact bytes = .error (artifactError .payloadShort pos) := by
  simp only [parseArtifact, hp, hb, if_pos h]

theorem parseArtifact_of_trailing (h : ceil8 b < bytes.length - pos) :
    parseArtifact bytes = .error (artifactError .trailing (pos + ceil8 b)) := by
  simp only [parseArtifact, hp, hb, if_neg (Nat.not_lt.2 h.le), if_pos h]

theorem parseArtifact_of_exact (h : bytes.length - pos = ceil8 b) :
    parseArtifact bytes = .ok ⟨p.nodes, p.leaves, b, pos⟩ := by
  simp only [parseArtifact, hp, hb, h, gt_iff_lt, lt_irrefl, if_false]

end

/-- The fields of an artifact up to the payload are read, whatever the length of the payload is. -/
theorem parse_artifactOf {sh : Option Shape} {b : Nat} {payload : List Byte} (hd : Shape.distinct sh)
    (hb : b < 2 ^ 32) {bytes : List Byte} (hbytes : bytes = artifactOf sh b payload) :
    ∃ p pos, parseTree bytes = .ok p ∧ readVarint bytes p.pos = .ok (b, pos) ∧ bytes.drop pos = payload ∧
      pos + payload.length = bytes.length ∧ ∀ w ∈ p.nodes.map Node.weight, w = 0#40 := by
  rw [artifactOf, List.append_assoc] at hbytes
  obtain ⟨p, hp, hdrop, hlen, hw⟩ := parseTree_artifact hd hbytes
  rw [List.length_append, length_varint] at hlen
  exact ⟨p, _, hp, readVarint_of_drop_eq hb hdrop,
    by rw [← List.drop_drop, hdrop, ← length_varint, List.drop_left], by omega, hw⟩

@[simp] theorem State.length_srcBytes (s : State) : s.srcBytes.length = s.srcLen.toNat := s.length_bytesAt _ _

/-- The first source byte. -/
theorem State.srcBytes_eq_cons {s : State} (h : s.srcLen ≠ 0#32) :
    ∃ rest, s.srcBytes = s.byteAt s.srcAddr.toNat :: rest := by
  obtain ⟨n, hn⟩ := Nat.exists_eq_succ_of_ne_zero fun h0 => h (BitVec.eq_of_toNat_eq h0)
  rw [State.srcBytes, State.bytesAt, hn, List.range_succ_eq_map]
  exact ⟨_, rfl⟩

/-! ### What is loaded -/

/-- The tree that an accepted artifact loads is in pre-order from NODE[0] on (R247). -/
theorem State.loaded_indices {s : State} {a : Loaded} (h : parseArtifact s.srcBytes = .ok a) {T : Tree}
    (hT : (s.loaded a).holdsTree T) : T.indices = List.range a.nodes.length := by
  obtain ⟨p, hp, hnodes, -⟩ := parseArtifact_parseTree h
  rcases parseTree_tree s.node hp with ⟨hnil, -⟩ | ⟨T', hidx, hheld, hind, -⟩
  · refine absurd ?_ hT.nodeCount_ne_zero
    show BitVec.ofNat 9 a.nodes.length = 0
    rw [hnodes, hnil]
    rfl
  · obtain ⟨hroot, hT, -⟩ := hT
    rw [← hnodes] at hheld hind
    rw [Tree.eq_of_heldBy hT hheld (hroot.trans hidx.symm), hind]

/-- A state that has loaded an artifact holds the tree of that artifact (R247, R252, 30_encoding.md R151). -/
theorem State.loaded_holdsShape {s : State} {a : Loaded} {sh : Option Shape} {b : Nat} {payload : List Byte}
    (h : parseArtifact s.srcBytes = .ok a) (hd : Shape.distinct sh) (hsrc : s.srcBytes = artifactOf sh b payload) :
    (s.loaded a).holdsShape sh ∧ a.nodes.length = Shape.sizeOf sh := by
  obtain ⟨sh', hsh, hd', hsize, hrecords⟩ := holdsShape_of_parseArtifact (s := s) (t := s.loaded a) h rfl rfl rfl rfl
  obtain ⟨hbytes, -⟩ := parseArtifact_bytes h
  rw [← hsize, ← hrecords] at hbytes
  obtain rfl : sh = sh' := artifactOf_tree_inj hd hd' (hsrc.symm.trans hbytes)
  exact ⟨hsh, hsize.symm⟩

theorem weightAt_writeNodes_eq_zero (t : Vector Node 511) {ns : List Node} (hw : ∀ w ∈ ns.map Node.weight, w = 0#40)
    (hle : ns.length ≤ 511) {k : Nat} (hk : k < ns.length) : weightAt (writeNodes t ns) k = 0 := by
  have hentry : (writeNodes t ns)[k]? = some ns[k] := by
    rw [getElem?_writeNodes_of_lt t (by omega) hk, List.getElem?_eq_getElem hk]
  rw [weightAt_eq hentry, hw _ (List.mem_map_of_mem (List.getElem_mem hk))]
  rfl

/-! ### The obligations -/

/-- Settles O42: every field of the artifact is read back, and there is one tree with its records. -/
theorem deserializeLoadsArtifact : Obligations.DeserializeLoadsArtifact := by
  intro s sh b payload hr hb hd hlen hsrc hcap
  obtain ⟨p, pos, hp, hbits, hpayload, hpos, hw⟩ := parse_artifactOf hd hb hsrc
  have ha := parseArtifact_of_exact hp hbits (by omega)
  have h := exec_deserialize_of_fits hr ha hcap
  obtain ⟨hsh, (hsize : p.nodes.length = Shape.sizeOf sh)⟩ := State.loaded_holdsShape ha hd hsrc
  have hle := Shape.sizeOf_le hd
  have hstored : s.bytesAt (s.srcAddr.toNat + pos) (ceil8 b) = payload := by
    rw [State.srcBytes, State.drop_bytesAt] at hpayload
    rw [State.length_srcBytes] at hpos
    rw [← hpayload]
    congr 1
    omega
  have hout : (s.bytesAt (s.srcAddr.toNat + pos) (ceil8 b)).length = ceil8 b := State.length_bytesAt ..
  refine ⟨_, h, ⟨rfl, rfl, rfl, rfl, rfl, rfl⟩, rfl, rfl, rfl, rfl, rfl, ?_, hsh,
    fun T hT => hsize ▸ State.loaded_indices ha hT, fun n hn => ?_, fun n hn => ?_, ?_, fun a ha => ?_,
    exec_sameInputs h⟩
  · rw [← hsize]
    exact Nat.mod_eq_of_lt (hsize.trans_lt (Nat.lt_succ_of_le hle) : p.nodes.length < 2 ^ 9)
  · exact weightAt_writeNodes_eq_zero s.node hw (by omega) (by omega)
  · exact getElem?_writeNodes_of_ge s.node (hsize.trans_le hn)
  · have hread := s.bytesAt_store s.dstAddr.toNat (s.bytesAt (s.srcAddr.toNat + pos) (ceil8 b))
    rw [hout] at hread
    exact hread.trans hstored
  · exact s.byteAt_store_outside (by rwa [hout])

/-- Settles O44: the version byte comes first, and a varint at fault is refused where the tree before it ends. -/
theorem deserializeChecksVersion : Obligations.DeserializeChecksVersion := by
  intro s hr
  refine ⟨fun h0 => ?_, fun h0 hversion => ?_, fun i sub h0 hversion hfail => ?_,
    fun sh rest start i sub hd hsrc hstart hfail => ?_⟩
  · have hnil : s.srcBytes = [] := List.eq_nil_of_length_eq_zero (by rw [State.length_srcBytes, h0]; rfl)
    exact exec_deserialize_of_error hr (parseArtifact_of_tree_error (by rw [hnil]; rfl))
  · obtain ⟨rest, hrest⟩ := State.srcBytes_eq_cons h0
    exact exec_deserialize_of_error hr
      (parseArtifact_of_tree_error (by rw [hrest]; exact if_pos hversion))
  · obtain ⟨rest, hrest⟩ := State.srcBytes_eq_cons h0
    rw [hversion] at hrest
    have hvarint := readVarint_of_varintFails hfail
    refine exec_deserialize_of_error hr (parseArtifact_of_tree_error ?_)
    rw [hrest] at hvarint ⊢
    simp [parseTree, formatVersion, hvarint]
  · obtain ⟨p, hp, -, hpos, -⟩ := parseTree_artifact hd hsrc
    rw [State.length_srcBytes] at hpos
    obtain rfl : start = p.pos := by omega
    exact exec_deserialize_of_error hr (parseArtifact_of_bitCount_error hp (readVarint_of_varintFails hfail))

/-- Settles O45: the payload is the rest of the source, and its length is compared before DST_CAP is. -/
theorem deserializeChecksPayloadLength : Obligations.DeserializeChecksPayloadLength := by
  intro s sh b start payload hr hb hd hsrc hstart
  obtain ⟨p, pos, hp, hbits, -, hpos, -⟩ := parse_artifactOf hd hb hsrc
  have hlen := s.length_srcBytes
  obtain rfl : start = pos := by omega
  refine ⟨fun hshort => ?_, fun hlong => ?_, fun hexact hcap => ?_⟩
  · exact exec_deserialize_of_error hr (parseArtifact_of_short hp hbits (by omega))
  · exact exec_deserialize_of_error hr (parseArtifact_of_trailing hp hbits (by omega))
  · have h := exec_deserialize_of_exceeds hr (parseArtifact_of_exact hp hbits (by omega)) hcap
    obtain ⟨hvalid, -⟩ := s.loseTree.sameTree_raise (capacityError (ceil8 b))
    exact ⟨_, h, hvalid, s.loseTree.raise_failedWith _⟩

/-- Settles O46: the record loop reads the records of the shape that are there, and the next one is at fault. -/
theorem deserializeChecksNodeCount : Obligations.DeserializeChecksNodeCount := by
  intro s n rest hr hn hsrc
  have hfail : ∀ {e : Error}, parseTree s.srcBytes = .error e →
      ∃ t : State, exec .deserialize s = .next t ∧ t.failedWith e :=
    fun h => exec_deserialize_of_error hr (parseArtifact_of_tree_error h)
  refine ⟨fun h => hfail (parseTree_of_exceeds hn hsrc h), fun sh more hle hnd hsize hrest => ?_,
    fun sh more hle hd hpos hsize hrest => ?_, fun sh k pos more hle hkn hk hd hrest hpos => ?_⟩
  · rw [hrest, ← sh.prefixBytes_size] at hsrc
    obtain ⟨q, hq, -, hneed, -, herr⟩ :=
      exists_parse_before_record hle hsize le_rfl (Shape.distinctUpTo_size hnd) hsrc
    rw [← sh.prefixBytes_size, ← hq]
    exact hfail (herr _ (Parse.readRecord_of_closed (hneed.2 rfl)))
  · rw [hrest] at hsrc
    obtain ⟨q, hq, hneed⟩ := sh.after_start hsize.le hd hpos (drop_nodeCount hsrc)
    have hread := hq.loop 0
    rw [sh.length_take_recordList hsize.le] at hread
    have hopen : q.need ≠ 0 := fun h0 => hsize.ne (hneed.1 h0)
    have hqpos : q.pos = 1 + varintLen n + (sh.prefixBytes n).length := hq.pos_eq
    rw [← hqpos]
    exact hfail ((parseTree_of_read hn hsrc hle hread).trans (Parse.close_of_open hopen))
  · rw [hrest] at hsrc
    obtain ⟨q, hq, hdrop, hneed, hseen, herr⟩ := exists_parse_before_record hle hkn hk.le hd hsrc
    rw [← hpos] at hq
    have hopen : q.need ≠ 0 := fun h0 => hk.ne (hneed.1 h0)
    rw [← hq]
    refine ⟨?_, ?_, ?_, ?_⟩
    · rintro rfl
      exact hfail (herr _ (Parse.readRecord_of_missing_tag hopen hdrop))
    · rintro tag after rfl h0 h1
      exact hfail (herr _ (Parse.readRecord_of_bad_tag hopen hdrop h0 h1))
    · rintro rfl
      exact hfail (herr _ (Parse.readRecord_of_missing_symbol hopen hdrop))
    · rintro sym after rfl hmem
      exact hfail (herr _ (Parse.readRecord_of_seen hopen hdrop (hseen sym hmem)))

/-- Settles O47: what SERIALIZE stored is the artifact of the shape held, and DESERIALIZE loads that (O42). -/
theorem deserializeUndoesSerialize : Obligations.DeserializeUndoesSerialize := by
  intro s t u sh _ hsh h hok hmem _ haddr hlen hr hcap
  obtain ⟨hfit, rfl⟩ := exec_serialize_success hsh h hok
  have hout : (s.serialized sh).outLen.toNat = (s.artifactOfSource sh).length :=
    Nat.mod_eq_of_lt (Nat.lt_of_le_of_lt hfit s.dstCap.isLt)
  have hsrc : u.srcBytes = s.artifactOfSource sh := by
    rw [State.srcBytes, haddr, hlen, hout]
    refine Eq.trans ?_ (s.bytesAt_store s.dstAddr.toNat (s.artifactOfSource sh))
    exact List.map_congr_left fun i _ => hmem _
  obtain ⟨v, hv, hdone, hvalid, -, -, hbits, -, -, hloaded, -, -, -, hpayload, -⟩ :=
    deserializeLoadsArtifact u sh s.bitCount.toNat _ hr s.bitCount.isLt hsh.distinct (State.length_bytesAt ..)
      hsrc hcap
  exact ⟨v, hv, hdone, hvalid, hloaded, hbits.trans (by rw [BitVec.ofNat_toNat, BitVec.setWidth_eq]), hpayload⟩

end Sys2Proof.Machine
end

section
/-! Issue and step (O48, O3), the pre-checks in their order (O19), and what each class of error leaves as it was
(O17, O18). -/

namespace Sys2Proof.Machine

/-! ### Issue and step -/

/-- Settles O48: a word written at 0x00C while idle is written to CMD, which issues it. -/
theorem cmdWriteIssues : Obligations.CmdWriteIssues :=
  fun s w hidle => s.hostWrite_reg_idle .cmd w hidle

/-- A placed command is issued, with no event due before its completion (60_exceptions.md R261). -/
theorem State.withFetchWord_encode (s : State) (i : Instr) :
    s.withFetchWord 32 (encode i).toNat = { s.issue (encode i) with events := [] } := by
  rw [State.withFetchWord, Nat.mod_eq_of_lt (encode i).isLt, BitVec.ofNat_toNat, BitVec.setWidth_eq,
    State.placeCommand]

/-- Settles O3: with no event due the step is the engine's, which runs the decoded command, and an event that is due
is the step. -/
theorem stepRunsDecodedCommand : Obligations.StepRunsDecodedCommand := by
  refine ⟨fun s w i hbusy hdec => ⟨fun hev => ?_, fun rest hev => ?_⟩, fun s i => ?_,
    fun s n off v rest hev => step_of_event hev, fun s n off rest hev => step_of_event hev,
    fun s rest hev => step_of_event hev, fun s hidle hev => ?_⟩
  · rw [step_of_no_event hev, engineStep_busy hbusy hdec]
  · rw [step_of_event hev]
    exact engineStep_busy (s := { s with events := rest }) hbusy hdec
  · rw [State.withFetchWord_encode, step_of_no_event rfl]
    exact engineStep_busy rfl (decode_eq_ok_iff_eq_encode.2 rfl)
  · rw [step_of_no_event hev, engineStep, hidle]

/-! ### The pre-checks -/

/-- What a command reports whose prerequisite flag is 0 (60_exceptions.md R265, R267 step 2). -/
def prerequisiteError : Instr → Error
  | .encode => ⟨.noLut, 0, 0⟩
  | _ => ⟨.noTree, 0, 0⟩

/-- The prerequisite flag is checked before all else (R267 step 2). -/
theorem exec_of_unmet {i : Instr} {s : State} (h : s.prerequisite i = false) :
    exec i s = .next (s.preCheckFailed (prerequisiteError i)) := by
  have hpre : (prerequisiteError i).code.isExecution = false := by cases i <;> rfl
  rw [← s.raise_preCheck _ hpre]
  cases i with
  | build => cases h
  | deserialize => cases h
  | genlut => simp [exec, execGenlut, show s.treeValid = false from h, prerequisiteError]
  | encode => simp [exec, execEncode, show s.lutValid = false from h, prerequisiteError]
  | decode => simp [exec, execDecode, show s.treeValid = false from h, prerequisiteError]
  | serialize => simp [exec, execSerialize, show s.treeValid = false from h, prerequisiteError]

/-- The ranges are checked next (R267 steps 3 and 4). -/
theorem exec_of_rangeError {i : Instr} {s : State} (hi : usesRanges i = true) (hp : s.prerequisite i = true)
    {e : Error} (he : s.rangeError = some e) : exec i s = .next (s.preCheckFailed e) := by
  rw [← s.raise_preCheck e (State.rangeError_preCheck he)]
  cases i with
  | build => cases hi
  | genlut => cases hi
  | encode => simp [exec, execEncode, show s.lutValid = true from hp, he]
  | decode => simp [exec, execDecode, show s.treeValid = true from hp, he]
  | serialize => simp [exec, execSerialize, show s.treeValid = true from hp, he]
  | deserialize => simp [exec, execDeserialize, he]

/-- The length of the packed source is checked last (R267 step 5). -/
theorem exec_of_short_source {i : Instr} {s : State} (hi : i = .decode ∨ i = .serialize)
    (hp : s.prerequisite i = true) (hr : s.rangesFit) (hl : s.srcLen.toNat < s.bitBytes) :
    exec i s = .next (s.preCheckFailed (lengthError s.bitBytes)) := by
  rw [← s.raise_preCheck _ rfl]
  have hnone := (State.rangeError_eq_none s).2 hr
  rcases hi with rfl | rfl
  · simp [exec, execDecode, show s.treeValid = true from hp, hnone, hl]
  · simp [exec, execSerialize, show s.treeValid = true from hp, hnone, hl]

/-- A source range that leaves DMEM is the first range error (20_memory.md R90). -/
theorem State.rangeError_source {s : State} (h : s.cfg.dmemBytes < s.srcAddr.toNat + s.srcLen.toNat) :
    s.rangeError = some ⟨.range, 0, 0⟩ := by
  simp [State.rangeError, State.srcInRange, Nat.not_le.2 h]

/-- A destination range that leaves DMEM is the second (R90). -/
theorem State.rangeError_destination {s : State} (hsrc : s.srcAddr.toNat + s.srcLen.toNat ≤ s.cfg.dmemBytes)
    (h : s.cfg.dmemBytes < s.dstAddr.toNat + s.dstCap.toNat) : s.rangeError = some ⟨.range, 0, 1⟩ := by
  simp [State.rangeError, State.srcInRange, State.dstInRange, hsrc, Nat.not_le.2 h]

/-- Ranges in DMEM that share a byte are the third (R91). -/
theorem State.rangeError_overlap {s : State} (hsrc : s.srcAddr.toNat + s.srcLen.toNat ≤ s.cfg.dmemBytes)
    (hdst : s.dstAddr.toNat + s.dstCap.toNat ≤ s.cfg.dmemBytes) (h : s.overlaps = true) :
    s.rangeError = some ⟨.overlap, 0, 0⟩ := by
  simp [State.rangeError, State.srcInRange, State.dstInRange, hsrc, hdst, h]

/-- Settles O19: each check is made only after the ones before it have passed. -/
theorem preChecksComeInOrder : Obligations.PreChecksComeInOrder := by
  refine ⟨fun s h => ⟨exec_of_unmet h, exec_of_unmet h, exec_of_unmet h⟩, fun s h => exec_of_unmet h,
    fun i s hi hp => ⟨fun h => ?_, fun hsrc h => ?_, fun hsrc hdst hlen hcap hlo hhi => ?_,
      fun hi' hr hl => exec_of_short_source hi' hp hr hl⟩⟩
  · exact exec_of_rangeError hi hp (State.rangeError_source h)
  · exact exec_of_rangeError hi hp (State.rangeError_destination hsrc h)
  · have hoverlap : s.overlaps = true := by simp [State.overlaps, hlen, hcap, hlo, hhi]
    exact exec_of_rangeError hi hp (State.rangeError_overlap hsrc hdst hoverlap)

/-! ### The two classes of errors -/

/-- A command that fails while it runs has passed the range checks (60_exceptions.md R266, R267). -/
theorem exec_execution_rangesFit {i : Instr} {s t : State} (h : exec i s = .next t)
    (hx : t.errCode.isExecution = true) : s.rangesFit := by
  rw [← State.rangeError_eq_none]
  cases hi : usesRanges i with
  | false =>
    cases i with
    | build =>
      cases h
      cases hx
    | genlut =>
      rcases execGenlut_cases h with ⟨-, rfl⟩ | ⟨-, vs, -, rfl⟩
      · rw [State.raise_errCode] at hx
        cases hx
      · cases hx
    | _ => cases hi
  | true =>
    cases hp : s.prerequisite i with
    | false =>
      cases (exec_of_unmet hp).symm.trans h
      cases i <;> cases hx
    | true =>
      cases he : s.rangeError with
      | none => rfl
      | some e =>
        cases (exec_of_rangeError hi hp he).symm.trans h
        exact absurd hx (Bool.eq_false_iff.1 (State.rangeError_preCheck he))

/-- Once its ranges fit, DESERIALIZE succeeds or fails with an execution error (43_container.md R240, R251). -/
theorem exec_deserialize_code {s t : State} (hr : s.rangesFit) (h : exec .deserialize s = .next t) :
    t.errCode = .none ∨ t.errCode.isExecution = true := by
  cases ha : parseArtifact s.srcBytes with
  | error e =>
    obtain ⟨u, hu, -, -, hcode, -⟩ := exec_deserialize_of_error hr ha
    cases hu.symm.trans h
    rw [hcode, parseArtifact_error ha]
    exact .inr rfl
  | ok a =>
    rcases Nat.lt_or_ge s.dstCap.toNat (ceil8 a.bitCount) with hcap | hcap
    · cases (exec_deserialize_of_exceeds hr ha hcap).symm.trans h
      rw [State.raise_errCode]
      exact .inr rfl
    · cases (exec_deserialize_of_fits hr ha hcap).symm.trans h
      exact .inl rfl

/-- A command that fails raises its error, and DESERIALIZE loses its tree first when the error is of the second class
(60_exceptions.md R266, 43_container.md R253). -/
theorem exec_failure_cases {i : Instr} {s t : State} (h : exec i s = .next t) (hne : t.errCode ≠ .none) :
    (∃ e, t = s.raise e ∧ (e.code.isExecution = true → i ≠ .deserialize)) ∨
    (i = .deserialize ∧ ∃ e, t = s.loseTree.raise e ∧ e.code.isExecution = true) := by
  by_cases hi : i = .deserialize
  · subst hi
    rcases execDeserialize_cases h with ⟨e, he, rfl⟩ | ⟨hr, e, rfl⟩ | ⟨-, a, -, -, rfl⟩
    · exact .inl ⟨e, rfl, fun hx => absurd hx (Bool.eq_false_iff.1 (State.rangeError_preCheck he))⟩
    · have hx := (exec_deserialize_code hr h).resolve_left hne
      exact .inr ⟨rfl, e, rfl, by rwa [State.raise_errCode] at hx⟩
    · exact absurd rfl hne
  · rcases exec_cases h with ⟨e, rfl⟩ | ⟨-, ns, n, r, l, rfl⟩ | ⟨-, -, vs, -, rfl⟩ | ⟨hd, -⟩ | ⟨hd, -⟩ |
      ⟨-, bs, b, out, -, rfl⟩
    · exact .inl ⟨e, rfl, fun _ => hi⟩
    · exact absurd rfl hne
    · exact absurd rfl hne
    · exact absurd hd hi
    · exact absurd hd hi
    · exact absurd rfl hne

/-- Settles O17: the error is raised on the state as it was, since only an execution error loses a tree first. -/
theorem preCheckErrorsChangeNothingElse : Obligations.PreCheckErrorsChangeNothingElse := by
  intro i s t h hne hpre
  rcases exec_failure_cases h hne with ⟨e, rfl, -⟩ | ⟨-, e, rfl, hx⟩
  · rw [State.raise_errCode] at hpre
    rw [s.raise_preCheck e hpre]
    rfl
  · rw [State.raise_errCode, hx] at hpre
    cases hpre

/-- An execution error makes every byte of a destination range in DMEM a free value (60_exceptions.md R266). -/
theorem State.byteAt_raise_inside {s : State} {e : Error} (hr : s.rangesFit) (hx : e.code.isExecution = true)
    {j : Nat} (hj : j < s.dstCap.toNat) :
    (s.raise e).byteAt (s.dstAddr.toNat + j) = Config.freeByte s.draws j := by
  rw [s.raise_execution e hx]
  exact s.byteAt_loseDst_inside (by rwa [State.dstClipped_eq hr])

theorem getElem?_freeNodes (d : Nat) {n : Nat} (hn : n < 511) :
    (freeNodes d)[n]? = some (Config.freeNode d n) := by
  unfold freeNodes
  rw [Vector.getElem?_ofFn, dif_pos hn]

/-- Settles O18: the error is raised on the state as it was, or on the state with its tree lost; either way the
destination range, which lies in DMEM, is one draw. -/
theorem executionErrorsLoseTheDestination : Obligations.ExecutionErrorsLoseTheDestination := by
  intro i s t h hx
  have hr : s.rangesFit := exec_execution_rangesFit h hx
  have hmem := exec_sameMemoryBut h
  have hne : t.errCode ≠ .none := by
    intro hnone
    rw [hnone] at hx
    cases hx
  rcases exec_failure_cases h hne with ⟨e, rfl, hi⟩ | ⟨rfl, e, rfl, he⟩
  · rw [State.raise_errCode] at hx
    obtain ⟨-, -, -, -, -, hout⟩ := s.raise_failedWith e
    exact ⟨hout, s.raise_bitCount e, hmem, ⟨s.draws, le_rfl, fun j hj => State.byteAt_raise_inside hr hx hj⟩,
      fun _ => ⟨s.sameTree_raise e, s.sameCodes_raise e⟩, fun hd => absurd hd (hi hx)⟩
  · obtain ⟨-, -, -, -, -, hout⟩ := s.loseTree.raise_failedWith e
    obtain ⟨htree, hnode, hcount, hroot, hleaf⟩ := s.loseTree.sameTree_raise e
    obtain ⟨hlutValid, hlut⟩ := s.loseTree.sameCodes_raise e
    refine ⟨hout, s.loseTree.raise_bitCount e, hmem, ⟨s.draws + 1, Nat.le_succ _, fun j hj => ?_⟩,
      fun hd => absurd rfl hd, fun _ => ⟨htree, hlutValid, ⟨hcount, hroot, hleaf⟩, hlut, fun n hn => ?_⟩⟩
    · exact State.byteAt_raise_inside (s := s.loseTree) hr he hj
    · rw [hnode]
      exact getElem?_freeNodes s.draws hn

end Sys2Proof.Machine
end

section
/-! Resets (O5, O6), and that a command always completes: a walk over a held tree never leaves it (O14), so no step
stops the block, and a busy engine gets its turn once the events due are through (O15). -/

namespace Sys2Proof.Machine

/-! ### Resets -/

theorem freqAt_replicate (n : Word) (sym : Symbol) : freqAt (Vector.replicate 256 n) sym = n := by
  simp [freqAt]

/-- With no error ERRCODE reads 0 (10_state.md R44). -/
theorem State.errCodeWord_eq_zero {s : State} (hcode : s.errCode = .none) (hsub : s.errSub = 0#8) :
    s.errCodeWord = 0#32 := by
  rw [State.errCodeWord, hcode, hsub]
  rfl

/-- Settles O5: each reset writes the listed values themselves, and FREQ as 256 copies of 0. -/
theorem resetsGiveListedValues : Obligations.ResetsGiveListedValues := by
  rintro s t (rfl | rfl | rfl) <;>
    exact ⟨rfl, rfl, rfl, rfl, rfl, rfl, State.errCodeWord_eq_zero rfl rfl, rfl, rfl, rfl, rfl, rfl, rfl, rfl, rfl,
      rfl, rfl, freqAt_replicate 0#32, rfl⟩

/-- A legal word has a destination exactly when its command uses the ranges (70_reset_and_hazards.md R303). -/
theorem hasDestination_of_decode {w : Word} {i : Instr} (h : decode w = .ok i) : hasDestination w = usesRanges i := by
  unfold hasDestination
  rw [h]
  cases i <;> rfl

theorem hasDestination_of_illegal {w : Word} (h : ∀ i : Instr, decode w ≠ .ok i) : hasDestination w = false := by
  unfold hasDestination
  cases hd : decode w with
  | ok i => exact absurd hd (h i)
  | error r => rfl

/-- A byte outside the destination range, or beyond DMEM, is outside the range clipped to DMEM (R303). -/
theorem State.outside_dstClipped {s : State} {a : Nat}
    (h : a < s.dstAddr.toNat ∨ s.dstAddr.toNat + s.dstCap.toNat ≤ a ∨ s.cfg.dmemBytes ≤ a) :
    a < s.dstAddr.toNat ∨ s.dstAddr.toNat + s.dstClipped ≤ a := by
  unfold State.dstClipped
  omega

/-- Settles O6: the reset itself keeps every byte, so what changes is what the abort loses, the clipped destination of
a command that has one. -/
theorem softResetKeepsMemory : Obligations.SoftResetKeepsMemory := by
  refine ⟨fun s h => ?_, fun s w i hbusy hdec hi => ?_⟩
  · have hnone : s.phase = .idle ∨ ∃ w, s.phase = .busy w ∧ hasDestination w = false := by
      rcases h with hidle | ⟨w, hbusy, hdec | hdec | hdec⟩
      · exact .inl hidle
      · exact .inr ⟨w, hbusy, hasDestination_of_decode hdec⟩
      · exact .inr ⟨w, hbusy, hasDestination_of_decode hdec⟩
      · exact .inr ⟨w, hbusy, hasDestination_of_illegal hdec⟩
    intro a
    rw [State.softReset, State.abort_none hnone, State.byteAt_clear]
  · have habort : s.abort = s.loseDst := State.abort_running hbusy ((hasDestination_of_decode hdec).trans hi)
    refine ⟨fun a ha => ?_, fun j hcap hmem => ?_⟩ <;> rw [State.softReset, habort, State.byteAt_clear]
    · exact s.byteAt_loseDst_outside (State.outside_dstClipped ha)
    · exact s.byteAt_loseDst_inside (lt_min hcap (by omega))

/-! ### Walks that stay in the tree -/

/-- From an inner node of a tree with an inner root, a walk over any bits meets nodes of the tree alone
(42_decoder.md R214). -/
theorem exists_walkBits {t : Vector Node 511} {root : NodeIdx} {w : Weight} {l r : Tree}
    (hroot : (Tree.node root w l r).heldBy t) (bits : List Bool) {i : NodeIdx} {w' : Weight} {l' r' : Tree}
    (h : (Tree.node i w' l' r').heldBy t) (j start : Nat) : ∃ walk, walkBits t root bits j i start = some walk := by
  induction bits generalizing i w' l' r' j start with
  | nil => exact ⟨_, rfl⟩
  | cons bit bits ih =>
    obtain ⟨hnode, hl, hr⟩ := h
    obtain ⟨T, hT, hchild⟩ : ∃ T : Tree, T.heldBy t ∧ T.idx = childOn bit l'.idx r'.idx := by
      cases bit
      · exact ⟨l', hl, rfl⟩
      · exact ⟨r', hr, rfl⟩
    cases T with
    | leaf k sym v =>
      have hleaf : nodeAt t k = some (.leaf sym v) := hT
      obtain ⟨walk, hwalk⟩ := ih hroot (j + 1) (j + 1)
      exact ⟨{ walk with out := sym :: walk.out }, by
        simp only [walkBits, hnode, ← hchild, Tree.idx_leaf, hleaf, hwalk, Option.map_some]⟩
    | node k v lk rk =>
      obtain ⟨walk, hwalk⟩ := ih hT (j + 1) start
      exact ⟨walk, by simp only [walkBits, hnode, ← hchild, Tree.idx_node, hT.1, hwalk]⟩

/-- Two subtrees have at least a leaf each. -/
theorem Tree.two_le_length_symbols (i : NodeIdx) (w : Weight) (l r : Tree) :
    2 ≤ (Tree.node i w l r).symbols.length := by
  have hl := l.length_indices
  have hr := r.length_indices
  simp only [Tree.symbols, List.length_append]
  omega

/-- So DECODE finds symbols or an error of the stream in every held tree (R212-R215). -/
theorem State.holdsTree.decodeBits_ne_notATree {s : State} {T : Tree} (h : s.holdsTree T) (nb : Nat) :
    s.decodeBits nb ≠ .notATree := by
  obtain ⟨hroot, hheld, -⟩ := id h
  cases T with
  | leaf i sym w =>
    rw [Tree.idx_leaf] at hroot
    subst hroot
    simp [State.decodeBits_leaf h.nodeCount_ne_zero hheld]
  | node i w l r =>
    obtain ⟨walk, hwalk⟩ := exists_walkBits hheld (s.srcBits nb) hheld 0 0
    rw [h.decodeBits_walk (Tree.two_le_length_symbols i w l r) hwalk]
    split <;> simp

theorem State.TreeInv.decodeBits_ne_notATree {s : State} (h : s.TreeInv) (hv : s.treeValid = true) (nb : Nat) :
    s.decodeBits nb ≠ .notATree := by
  obtain ⟨hvalid, -⟩ := h
  rcases hvalid hv with ⟨hcount, -⟩ | ⟨T, hT⟩
  · rw [State.decodeBits_zero_nodes hcount]
    split <;> simp
  · exact hT.decodeBits_ne_notATree nb

/-! ### Every command completes -/

theorem State.TreeInv.exists_genlut {s : State} (h : s.TreeInv) (hv : s.treeValid = true) :
    ∃ t, exec .genlut s = .next t := by
  obtain ⟨sh, hsh⟩ := h.holdsShape hv
  obtain ⟨vs, hvs, -⟩ := hsh.artifact_eq
  obtain ⟨t, ht, -⟩ := exec_genlut hv hvs
  exact ⟨t, ht⟩

theorem State.rangesFit.exists_encode {s : State} (hr : s.rangesFit) (hv : s.lutValid = true) :
    ∃ t, exec .encode s = .next t := by
  cases hb : encodeSymbols s.lut 0 s.srcBytes with
  | error e => exact ⟨_, exec_encode_of_error hv hr hb⟩
  | ok bits =>
    rcases Nat.lt_or_ge s.dstCap.toNat (ceil8 bits.length) with hcap | hcap
    · exact ⟨_, exec_encode_of_exceeds hv hr hb hcap⟩
    · exact ⟨_, exec_encode_of_fits hv hr hb hcap⟩

theorem State.TreeInv.exists_decode {s : State} (h : s.TreeInv) (hv : s.treeValid = true) (hr : s.rangesFit)
    (hl : s.bitBytes ≤ s.srcLen.toNat) : ∃ t, exec .decode s = .next t := by
  rw [exec_decode]
  cases hd : s.decodeBits s.bitCount.toNat with
  | notATree => exact absurd hd (h.decodeBits_ne_notATree hv _)
  | failed e => exact ⟨s.raise e, by rw [State.decodeReport_of_failed hv hr hl hd, State.deliver]⟩
  | symbols out =>
    rcases Nat.lt_or_ge s.dstCap.toNat out.length with hcap | hcap
    · exact ⟨s.raise _, by rw [State.decodeReport_of_exceeds hv hr hl hd hcap, State.deliver]⟩
    · exact ⟨_, by rw [State.decodeReport_of_fits hv hr hl hd hcap, State.deliver]⟩

theorem State.TreeInv.exists_serialize {s : State} (h : s.TreeInv) (hv : s.treeValid = true) (hr : s.rangesFit)
    (hl : s.bitBytes ≤ s.srcLen.toNat) : ∃ t, exec .serialize s = .next t := by
  obtain ⟨sh, hsh⟩ := h.holdsShape hv
  rcases Nat.lt_or_ge s.dstCap.toNat (s.artifactOfSource sh).length with hcap | hcap
  · exact ⟨_, exec_serialize_of_exceeds hv hsh hr hl hcap⟩
  · exact ⟨_, exec_serialize_of_fits hv hsh hr hl hcap⟩

theorem State.rangesFit.exists_deserialize {s : State} (hr : s.rangesFit) : ∃ t, exec .deserialize s = .next t := by
  cases ha : parseArtifact s.srcBytes with
  | error e =>
    obtain ⟨t, ht, -⟩ := exec_deserialize_of_error hr ha
    exact ⟨t, ht⟩
  | ok a =>
    rcases Nat.lt_or_ge s.dstCap.toNat (ceil8 a.bitCount) with hcap | hcap
    · exact ⟨_, exec_deserialize_of_exceeds hr ha hcap⟩
    · exact ⟨_, exec_deserialize_of_fits hr ha hcap⟩

/-- A command with ranges completes by a failed check (60_exceptions.md R267), or once its checks have passed. -/
theorem exists_exec_of_checks {i : Instr} {s : State} (hi : usesRanges i = true) (hp : s.prerequisite i = true)
    (h : s.rangesFit → (i = .decode ∨ i = .serialize → s.bitBytes ≤ s.srcLen.toNat) → ∃ t, exec i s = .next t) :
    ∃ t, exec i s = .next t := by
  cases he : s.rangeError with
  | some e => exact ⟨_, exec_of_rangeError hi hp he⟩
  | none =>
    have hr := (State.rangeError_eq_none s).1 he
    by_cases hshort : (i = .decode ∨ i = .serialize) ∧ s.srcLen.toNat < s.bitBytes
    · exact ⟨_, exec_of_short_source hshort.1 hp hr hshort.2⟩
    · exact h hr fun hi' => Nat.le_of_not_lt fun hl => hshort ⟨hi', hl⟩

/-- No command stops the block: the faults of the model are over NODE tables that hold no tree (log 14). -/
theorem State.TreeInv.exists_exec {s : State} (h : s.TreeInv) (i : Instr) : ∃ t, exec i s = .next t := by
  cases hp : s.prerequisite i with
  | false => exact ⟨_, exec_of_unmet hp⟩
  | true =>
    cases i with
    | build => exact ⟨_, rfl⟩
    | genlut => exact h.exists_genlut hp
    | encode => exact exists_exec_of_checks rfl hp fun hr _ => hr.exists_encode hp
    | decode => exact exists_exec_of_checks rfl hp fun hr hl => h.exists_decode hp hr (hl (.inl rfl))
    | serialize => exact exists_exec_of_checks rfl hp fun hr hl => h.exists_serialize hp hr (hl (.inr rfl))
    | deserialize => exact exists_exec_of_checks rfl hp fun hr _ => hr.exists_deserialize

/-- Settles O14: over a tree every command has a next state, and every completion sets DONE and leaves IRQ_EN. -/
theorem everyCommandCompletes : Obligations.EveryCommandCompletes := by
  intro i s hT
  obtain ⟨t, ht⟩ := hT.exists_exec i
  obtain ⟨hidle, hdone⟩ := exec_completes ht
  obtain ⟨-, hirqEn, -⟩ := exec_sameInputs ht
  exact ⟨t, ht, hidle, hdone, by rw [State.irq, hdone, hirqEn, Bool.true_and]⟩

/-! ### Every step goes on -/

theorem State.TreeInv.exists_engineStep {s : State} (h : s.TreeInv) : ∃ t, engineStep s = .next t := by
  unfold engineStep
  split
  · exact ⟨s, rfl⟩
  · unfold Machine.complete
    split
    · exact h.exists_exec _
    · exact ⟨_, rfl⟩

theorem State.TreeInv.exists_step {s : State} (h : s.TreeInv) : ∃ t, step s = .next t := by
  cases hev : s.events with
  | nil =>
    rw [step_of_no_event hev]
    exact h.exists_engineStep
  | cons e rest =>
    rw [step_of_event hev]
    cases e with
    | engineTurn => exact State.TreeInv.exists_engineStep (s := { s with events := rest }) h
    | _ => exact ⟨_, rfl⟩

/-! ### The events due -/

@[simp] theorem State.abort_events (s : State) : s.abort.events = s.events := by
  rcases s.abort_cases with e | e <;> rw [e]
  rfl

theorem State.writeReg_events (s : State) (r : Reg) (v : Word) : (s.writeReg r v).events = s.events := by
  cases r with
  | ctrl =>
    show (s.writeCtrl v).events = s.events
    rcases s.writeCtrl_cases v with ⟨-, e⟩ | ⟨-, e⟩ <;> rw [e]
    · exact s.abort_events
    · rfl
  | _ => rfl

theorem State.hostWrite_events (s : State) (n : Size) (off : Offset) (v : Word) :
    (s.hostWrite n off v).events = s.events := by
  rcases s.hostWrite_cases n off v with ⟨-, e⟩ | ⟨-, -, e⟩ | ⟨-, r, -, -, e⟩ | ⟨-, sym, -, e⟩ |
    ⟨-, k, -, e⟩ | ⟨-, e⟩ <;> rw [e]
  · exact s.writeReg_events .ctrl v
  · exact s.writeReg_events r v
  · rfl

theorem engineStep_events {s t : State} (h : engineStep s = .next t) : t.events = s.events := by
  rcases engineStep_cases h with ⟨-, rfl⟩ | ⟨w, i, -, -, hx⟩ | ⟨w, r, -, -, rfl⟩
  · rfl
  · obtain ⟨-, -, -, -, -, -, -, -, -, hev, -⟩ := exec_sameInputs hx
    exact hev
  · rfl

/-- A step takes the oldest event and leaves the others due (log 1). -/
theorem step_events {s t : State} (h : step s = .next t) : t.events = s.events.tail := by
  rcases step_cases h with ⟨n, off, rest, hev, rfl⟩ | ⟨n, off, v, rest, hev, rfl⟩ | ⟨rest, hev, rfl⟩ |
    ⟨rest, hev, hx⟩ | ⟨hev, hx⟩ <;> rw [hev]
  · rcases State.hostRead_state { s with events := rest } n off with e | e <;> rw [e] <;> rfl
  · exact State.hostWrite_events _ n off v
  · rfl
  · exact engineStep_events hx
  · exact (engineStep_events hx).trans hev

/-- With no event due a step leaves the engine idle (60_exceptions.md R262). -/
theorem step_idle_of_no_event {s t : State} (hev : s.events = []) (h : step s = .next t) : t.phase = .idle := by
  rw [step_of_no_event hev] at h
  rcases engineStep_cases h with ⟨hidle, rfl⟩ | ⟨w, i, -, -, hx⟩ | ⟨w, r, -, -, rfl⟩
  · exact hidle
  · exact (exec_completes hx).1
  · rfl

/-! ### Runs -/

/-- A run begins with a step. -/
theorem run_succ {M : Host.Core} {s t : M.State} (h : M.step s = .next t) (k : Nat) : M.run (k + 1) s = M.run k t := by
  rw [Host.Core.run, h]

/-- Whatever is due, one step after the last event leaves the engine idle. -/
theorem State.TreeInv.run_events_idle {s : State} (h : s.TreeInv) :
    ∃ t : State, Host.Core.run Sys2Proof.core (s.events.length + 1) s = .next t ∧ t.phase = .idle := by
  obtain ⟨u, hu⟩ := h.exists_step
  have hrest := step_events hu
  induction hev : s.events generalizing s u with
  | nil => exact ⟨u, run_succ hu 0, step_idle_of_no_event hev hu⟩
  | cons e rest ih =>
    rw [hev, List.tail_cons] at hrest
    have hT := stepKeepsTreeInvariant s u h hu
    obtain ⟨v, hv⟩ := hT.exists_step
    obtain ⟨t, hrun, hidle⟩ := ih hT v hv (step_events hv) hrest
    exact ⟨t, (run_succ hu _).trans hrun, hidle⟩

/-- Settles O15: every step takes one event, none stops the block, and with none due the engine completes. -/
theorem busyEngineBecomesIdle : Obligations.BusyEngineBecomesIdle := by
  intro s hT _
  obtain ⟨t, hrun, hidle⟩ := hT.run_events_idle
  exact ⟨s.events.length + 1, t, le_rfl, hrun, hidle⟩

end Sys2Proof.Machine
end
